-- ==== Sys2Proof/Word.lean ====
section
/-! DEFINITION. The word types whose widths the wire and the records fix: bytes, 16-bit fields, 4-bit counts. The widths of a register
and of IDENTITY are parameters (Config.lean). -/

namespace Sys2Proof

/-- One byte of a stream or a buffer (R10). -/
abbrev Byte := BitVec 8

/-- A 16-bit field: `uint16-BE` on the wire and `rssi_q1` (R76, R79, R196). -/
abbrev Word := BitVec 16

/-- A 4-bit count, index or register number (R25, R29, R32, R78). -/
abbrev Nibble := BitVec 4

end Sys2Proof
end

