-- ==== Sys2Proof/Config.lean ====
section
/-! DEFINITION. The implementation parameters of 00_scope.md section 3, each a named constant with the value given there. -/

namespace Sys2Proof.Config

/-- The byte that opens every frame (R4). -/
def sync : Byte := 0x80

/-- The most argument bytes a frame carries (R5). -/
def maxLen : Nat := 10

/-- The CRC polynomial in reflected form (R6). -/
def crcPolyR : Byte := 0x8C

/-- The CRC register's start value (R7, D3, I1). UNVERIFIED (log 12): unsafe, every CRC depends on it. -/
def crcInit : Byte := 0x00

/-- The CRC's final XOR (R7, D3, I1). UNVERIFIED (log 12): unsafe, every CRC depends on it. -/
def crcXorOut : Byte := 0x00

/-- `IDW`, the width of IDENTITY and of `dst` (R8, D6, I2). -/
abbrev idw : Nat := 16

/-- `REGW`, the width of a register (R32). -/
abbrev regw : Nat := 16

/-- Bytes of the reader's frame buffer, `MAX_LEN + 4` (R9, R24). -/
abbrev rbufBytes : Nat := 14

/-- Bytes of the encoder's frame buffer, `7 + 4` (R9, R28). -/
abbrev tbufBytes : Nat := 11

/-- Argument bytes of a CMD record and of a FRAME record (R78, R79). -/
abbrev argBytes : Nat := 10

/-- TYPE of a boot frame (R74). -/
def bootType : Byte := 0xF0

/-- TYPE of a telemetry frame (R74). -/
def telemetryType : Byte := 0xFF

end Sys2Proof.Config

namespace Sys2Proof

/-- An identity: the value of IDENTITY and of `dst` (R8, R34). -/
abbrev Identity := BitVec Config.idw

/-- The value of a register, read and written whole (R32). -/
abbrev RegWord := BitVec Config.regw

end Sys2Proof
end

