-- ==== Sys2Proof/Syntax.lean ====
section
/-! DEFINITION. The operations of the block: one constructor of `Instr` per row of spec/opcode_table.json, and the form in which
the host hands an operation over (`Transaction`). -/

namespace Sys2Proof

/-- The ten argument bytes of a record (R78). -/
abbrev Args := Vector Byte Config.argBytes

/-- The CMD input record (R78); bytes `arg[argc..9]` are ignored. -/
structure CmdRecord where
  opcode : Byte
  argc : Nibble
  arg : Args
  deriving DecidableEq, Repr

/-- The instructions: one constructor per row of the opcode table, in the table's order and its four formats (R85). -/
inductive Instr where
  -- HOSTOP: the six host operations (R81)
  /-- RX_BYTE: the reader consumes one byte (R151). -/
  | rxByte (b : Byte)
  /-- CMD: a command record is presented to the encoder (R132). -/
  | cmd (c : CmdRecord)
  /-- TX_TAKE: the host takes the next frame byte (R133). -/
  | txTake
  /-- REG_READ: read a register index (R210). -/
  | regRead (i : Nibble)
  /-- REG_WRITE: write a register index (R211). -/
  | regWrite (i : Nibble) (v : RegWord)
  /-- RESET (R260). -/
  | reset
  -- CMD: a CMD record selected by its opcode byte (R72, R85); the count is an operand, so that R131's mismatch can be spelled
  /-- `setid`, opcode C0, 2 arguments (R121). -/
  | setid (argc : Nibble) (arg : Args)
  /-- `cmpid`, opcode C1, 2 arguments (R122). -/
  | cmpid (argc : Nibble) (arg : Args)
  /-- `resetrx`, opcode C2, 0 arguments (R123). -/
  | resetrx (argc : Nibble) (arg : Args)
  /-- `setfreq`, opcode C3, 3 arguments (R124). -/
  | setfreq (argc : Nibble) (arg : Args)
  /-- `setchanbw`, opcode C4, 2 arguments (R125). -/
  | setchanbw (argc : Nibble) (arg : Args)
  /-- `setdrate`, opcode C5, 2 arguments (R126). -/
  | setdrate (argc : Nibble) (arg : Args)
  /-- `setmod`, opcode C6, 1 argument (R127). -/
  | setmod (argc : Nibble) (arg : Args)
  /-- `settxpow`, opcode C7, 1 argument (R128). -/
  | settxpow (argc : Nibble) (arg : Args)
  /-- `send`, opcode C8, 7 arguments (R129). -/
  | send (argc : Nibble) (arg : Args)
  -- MARKER
  /-- SYNC, the byte 80 at wire offset 0 (R152). -/
  | sync
  -- FRAME_TYPE: a received frame selected by its TYPE byte (R74, R85); LEN is the number of arguments, the CRC byte is any byte
  /-- Acknowledgment of `setid`, TYPE C0 (R182). -/
  | ackSetid (args : List Byte) (crc : Byte)
  /-- Acknowledgment of `cmpid`, TYPE C1 (R183). -/
  | ackCmpid (args : List Byte) (crc : Byte)
  /-- Acknowledgment of `resetrx`, TYPE C2 (R184). -/
  | ackResetrx (args : List Byte) (crc : Byte)
  /-- Acknowledgment of `setfreq`, TYPE C3 (R185). -/
  | ackSetfreq (args : List Byte) (crc : Byte)
  /-- Acknowledgment of `setchanbw`, TYPE C4 (R186). -/
  | ackSetchanbw (args : List Byte) (crc : Byte)
  /-- Acknowledgment of `setdrate`, TYPE C5 (R187). -/
  | ackSetdrate (args : List Byte) (crc : Byte)
  /-- Acknowledgment of `setmod`, TYPE C6 (R188). -/
  | ackSetmod (args : List Byte) (crc : Byte)
  /-- Acknowledgment of `settxpow`, TYPE C7 (R189). -/
  | ackSettxpow (args : List Byte) (crc : Byte)
  /-- Acknowledgment of `send`, TYPE C8 (R190). -/
  | ackSend (args : List Byte) (crc : Byte)
  /-- Boot frame, TYPE F0 (R193). -/
  | boot (args : List Byte) (crc : Byte)
  /-- Telemetry frame, TYPE FF (R194). -/
  | telemetry (args : List Byte) (crc : Byte)
  deriving DecidableEq, Repr

/-- How a transaction is selected: the six HOSTOP rows by name, since they have no binary encoding (R81), and the three
formats that a byte selects (R85). DESIGN CHOICE (log 2), safe. -/
inductive Format where
  | rxByte
  | cmd
  | txTake
  | regRead
  | regWrite
  | reset
  /-- A CMD record spelled by its command's name (R84 `cmd setid ..`): its opcode byte selects the row. -/
  | catalog
  /-- One byte at wire offset 0. -/
  | marker
  /-- A whole wire frame (R70, R84 `rxframe`): the byte at wire offset 1 selects the row. -/
  | frame
  deriving DecidableEq, Repr

/-- One operation as the host hands it over: its format and its bytes. DESIGN CHOICE (log 2), safe. -/
structure Transaction where
  fmt : Format
  bytes : List Byte
  deriving DecidableEq, Repr

end Sys2Proof
end

