-- ==== Sys2Proof/WellFormed.lean ====
section
/-! DEFINITION. Which terms of `Instr` can be spelled: a frame carries at most ten argument bytes (R5). Every other operand's range
is its type's (a 4-bit index, a 16-bit value, ten argument bytes, an 8-bit byte). -/

namespace Sys2Proof

/-- A frame's arguments fit: `LEN <= 10` (R5, R70). -/
def argsFit (args : List Byte) : Bool := args.length ≤ Config.maxLen

/-- The admission check of `Instr` (R5, R83). -/
def Instr.wellFormed : Instr → Bool
  | .rxByte _ | .cmd _ | .txTake | .regRead _ | .regWrite _ _ | .reset => true
  | .setid _ _ | .cmpid _ _ | .resetrx _ _ | .setfreq _ _ | .setchanbw _ _ => true
  | .setdrate _ _ | .setmod _ _ | .settxpow _ _ | .send _ _ | .sync => true
  | .ackSetid args _ => argsFit args
  | .ackCmpid args _ => argsFit args
  | .ackResetrx args _ => argsFit args
  | .ackSetfreq args _ => argsFit args
  | .ackSetchanbw args _ => argsFit args
  | .ackSetdrate args _ => argsFit args
  | .ackSetmod args _ => argsFit args
  | .ackSettxpow args _ => argsFit args
  | .ackSend args _ => argsFit args
  | .boot args _ => argsFit args
  | .telemetry args _ => argsFit args

/-- The instruction can be spelled. -/
abbrev Instr.WellFormed (i : Instr) : Prop := i.wellFormed = true

end Sys2Proof
end

