-- ==== Sys2Proof/Decode.lean ====
section
/-! DEFINITION. Decoding a transaction into an instruction, total and rejecting by name, and the encoder. The opcode bytes are those of
30_encoding.md R72 and R74; the layout of a HOSTOP transaction is the model's (log 2). -/

namespace Sys2Proof

/-- Why a transaction spells no operation (I7, I8). Each is raised by `decode` and is safe: the host can spell nothing else. -/
inductive Reject where
  /-- The format takes another number of operand bytes. -/
  | operandCount
  /-- A CMD record's count does not fit its 4 bits (R78). -/
  | argcField
  /-- A register index above 15 (I8, R32). -/
  | regIndex
  /-- A command spelled by name whose opcode is not in the catalog (R72). -/
  | notCatalog
  /-- A marker or a frame whose first byte is not SYNC (R4, R70). -/
  | notSync
  /-- A frame whose TYPE is not recognised (R73). -/
  | notRecognised
  /-- A frame whose LEN exceeds 10 (R5). -/
  | lenField
  deriving DecidableEq, Repr

/-- A register value from its two bytes, most significant first (log 2). -/
def wordOfBytes (hi lo : Byte) : RegWord := BitVec.ofNat Config.regw (hi.toNat * 256 + lo.toNat)

/-- The CMD rows: opcode byte, instruction (R72). -/
def commandRows : List (Byte × (Nibble → Args → Instr)) :=
  [(0xC0, .setid), (0xC1, .cmpid), (0xC2, .resetrx), (0xC3, .setfreq), (0xC4, .setchanbw),
   (0xC5, .setdrate), (0xC6, .setmod), (0xC7, .settxpow), (0xC8, .send)]

/-- The FRAME_TYPE rows: TYPE byte, instruction (R74). -/
def frameRows : List (Byte × (List Byte → Byte → Instr)) :=
  [(0xC0, .ackSetid), (0xC1, .ackCmpid), (0xC2, .ackResetrx), (0xC3, .ackSetfreq), (0xC4, .ackSetchanbw),
   (0xC5, .ackSetdrate), (0xC6, .ackSetmod), (0xC7, .ackSettxpow), (0xC8, .ackSend), (0xF0, .boot), (0xFF, .telemetry)]

/-- The row of a table that a byte selects, mask FF (R85). -/
def selectRow {α : Type} (rows : List (Byte × α)) (b : Byte) : Option α :=
  (rows.find? (fun row => row.1 == b)).map (·.2)

/-- A CMD record (R78) from its bytes: opcode, count, ten argument bytes. -/
def decodeRecord : List Byte → Except Reject CmdRecord
  | opcode :: argc :: arg =>
    if h : arg.length = Config.argBytes then
      if argc.toNat < 16 then .ok ⟨opcode, argc.setWidth 4, ⟨arg.toArray, by simpa using h⟩⟩ else .error .argcField
    else .error .operandCount
  | _ => .error .operandCount

/-- A CMD row (R72): the record's opcode byte selects it. -/
def decodeCatalog (bytes : List Byte) : Except Reject Instr :=
  match decodeRecord bytes with
  | .error r => .error r
  | .ok c =>
    match selectRow commandRows c.opcode with
    | none => .error .notCatalog
    | some mk => .ok (mk c.argc c.arg)

/-- A FRAME_TYPE row (R70, R71): SYNC, TYPE, LEN, LEN arguments and one CRC byte. -/
def decodeFrame : List Byte → Except Reject Instr
  | marker :: type :: len :: rest =>
    if marker = Config.sync then
      match selectRow frameRows type with
      | none => .error .notRecognised
      | some mk =>
        if len.toNat ≤ Config.maxLen then
          if rest.length = len.toNat + 1 then .ok (mk (rest.take len.toNat) (rest.getD len.toNat 0))
          else .error .operandCount
        else .error .lenField
    else .error .notSync
  | _ => .error .operandCount

/-- The instruction a transaction spells, or why it spells none. -/
def decode (t : Transaction) : Except Reject Instr :=
  match t.fmt, t.bytes with
  | .rxByte, [b] => .ok (.rxByte b)
  | .cmd, bytes => (decodeRecord bytes).map .cmd
  | .txTake, [] => .ok .txTake
  | .regRead, [i] => if i.toNat < 16 then .ok (.regRead (i.setWidth 4)) else .error .regIndex
  | .regWrite, [i, hi, lo] =>
    if i.toNat < 16 then .ok (.regWrite (i.setWidth 4) (wordOfBytes hi lo)) else .error .regIndex
  | .reset, [] => .ok .reset
  | .catalog, bytes => decodeCatalog bytes
  | .marker, [b] => if b = Config.sync then .ok .sync else .error .notSync
  | .frame, bytes => decodeFrame bytes
  | _, _ => .error .operandCount

/-- The bytes of a CMD record (R78). -/
def recordBytes (opcode : Byte) (argc : Nibble) (arg : Args) : List Byte :=
  opcode :: argc.setWidth 8 :: arg.toList

/-- The bytes of a wire frame before its CRC byte: SYNC TYPE LEN ARGS (R70). -/
def frameHead (type : Byte) (args : List Byte) : List Byte :=
  Config.sync :: type :: BitVec.ofNat 8 args.length :: args

/-- The bytes of a wire frame with a given CRC byte (R70). -/
def frameBytes (type : Byte) (args : List Byte) (crc : Byte) : List Byte :=
  frameHead type args ++ [crc]

/-- The transaction that spells an instruction (R70, R72, R78, R81). -/
def encode : Instr → Transaction
  | .rxByte b => ⟨.rxByte, [b]⟩
  | .cmd c => ⟨.cmd, recordBytes c.opcode c.argc c.arg⟩
  | .txTake => ⟨.txTake, []⟩
  | .regRead i => ⟨.regRead, [i.setWidth 8]⟩
  | .regWrite i v => ⟨.regWrite, [i.setWidth 8, v.extractLsb' 8 8, v.extractLsb' 0 8]⟩
  | .reset => ⟨.reset, []⟩
  | .setid argc arg => ⟨.catalog, recordBytes 0xC0 argc arg⟩
  | .cmpid argc arg => ⟨.catalog, recordBytes 0xC1 argc arg⟩
  | .resetrx argc arg => ⟨.catalog, recordBytes 0xC2 argc arg⟩
  | .setfreq argc arg => ⟨.catalog, recordBytes 0xC3 argc arg⟩
  | .setchanbw argc arg => ⟨.catalog, recordBytes 0xC4 argc arg⟩
  | .setdrate argc arg => ⟨.catalog, recordBytes 0xC5 argc arg⟩
  | .setmod argc arg => ⟨.catalog, recordBytes 0xC6 argc arg⟩
  | .settxpow argc arg => ⟨.catalog, recordBytes 0xC7 argc arg⟩
  | .send argc arg => ⟨.catalog, recordBytes 0xC8 argc arg⟩
  | .sync => ⟨.marker, [0x80]⟩
  | .ackSetid args crc => ⟨.frame, frameBytes 0xC0 args crc⟩
  | .ackCmpid args crc => ⟨.frame, frameBytes 0xC1 args crc⟩
  | .ackResetrx args crc => ⟨.frame, frameBytes 0xC2 args crc⟩
  | .ackSetfreq args crc => ⟨.frame, frameBytes 0xC3 args crc⟩
  | .ackSetchanbw args crc => ⟨.frame, frameBytes 0xC4 args crc⟩
  | .ackSetdrate args crc => ⟨.frame, frameBytes 0xC5 args crc⟩
  | .ackSetmod args crc => ⟨.frame, frameBytes 0xC6 args crc⟩
  | .ackSettxpow args crc => ⟨.frame, frameBytes 0xC7 args crc⟩
  | .ackSend args crc => ⟨.frame, frameBytes 0xC8 args crc⟩
  | .boot args crc => ⟨.frame, frameBytes 0xF0 args crc⟩
  | .telemetry args crc => ⟨.frame, frameBytes 0xFF args crc⟩

/-- The low `n` bytes of a number, lowest first: the opcode table's numbering of an instruction's bits. -/
def lowBytes : Nat → Nat → List Byte
  | 0, _ => []
  | n + 1, w => BitVec.ofNat 8 w :: lowBytes n (w / 256)

/-- A list of bytes followed by zeros, `n` in all. -/
def zeroPadded (n : Nat) (bytes : List Byte) : List Byte :=
  (bytes ++ List.replicate n 0).take n

/-- The transaction of a table row whose bits are `w`, every bit above `nbits` zero. A row's first byte is the marker, the CMD
record's opcode or the frame's TYPE byte (R85); C0 to C8 name both a CMD and a FRAME_TYPE row and are read as the CMD row
(DESIGN CHOICE, log 9, safe). -/
def tableTransaction (nbits w : Nat) : Transaction :=
  let row := lowBytes (nbits / 8) w
  match row with
  | [] => ⟨.catalog, []⟩
  | b :: _ =>
    if b = Config.sync then ⟨.marker, [b]⟩
    else if b = Config.bootType ∨ b = Config.telemetryType then
      let wire := zeroPadded 13 row
      ⟨.frame, Config.sync :: wire.take ((wire.getD 1 0).toNat + 3)⟩
    else ⟨.catalog, zeroPadded 12 row⟩

/-- The instruction the decoder reads from a table row's bits. -/
def decodeTableWord (nbits w : Nat) : Option Instr :=
  match decode (tableTransaction nbits w) with
  | .ok i => some i
  | .error _ => none

end Sys2Proof
end

