-- ==== Sys2Proof/Machine/State.lean ====
section
/-! DEFINITION. The block's state (10_state.md R20), its outputs of the last step (R37) and the host's side of its ports, with the
reset values of R39. -/

namespace Sys2Proof.Machine

/-- `rs`, the reader's state (R23). The 2-bit code 3 is never held and cannot be built (I3, log 10). -/
inductive ReaderState where
  /-- Looking for SYNC. -/
  | seekSync
  /-- SYNC received, the next byte is TYPE (C5). -/
  | gotType
  /-- TYPE accepted: LEN, ARGS and CRC are collected. -/
  | accumulating
  deriving DecidableEq, Repr

/-- `class` of a FRAME record (R79): ACK 0, BOOT 1, TELEM 2. -/
inductive FrameClass where
  | ack
  | boot
  | telem
  deriving DecidableEq, Repr

/-- `ack_kind` of a FRAME record (R79, R191): OK 0, REMOTE_BAD_CRC 1, NACK 2, NONE 3. -/
inductive AckKind where
  | ok
  | remoteBadCrc
  | nack
  | none
  deriving DecidableEq, Repr

/-- The FRAME output record (R79). -/
structure FrameRec where
  cls : FrameClass
  type : Byte
  len : Nibble
  args : Args
  crc : Byte
  wf : Bool
  ackStatus : Byte
  ackKind : AckKind
  src : Word
  burst : Word
  pktid : Word
  rssiRaw : Byte
  rssiQ1 : Word
  dst : Identity
  deriving DecidableEq, Repr

/-- The event record of RXEVT and ENCEVT (R80). -/
structure Event where
  code : Byte
  a : Byte
  b : Byte
  deriving DecidableEq, Repr

/-- One thing a step puts out (R14), or the value a REG_READ returns (R210). -/
inductive Output where
  | frame (r : FrameRec)
  | rxevt (e : Event)
  | encevt (e : Event)
  | tx (b : Byte)
  | regData (v : RegWord)
  deriving DecidableEq, Repr

/-- Why the machine stops. The block itself never stops (R238): each is a state or an operation the spec leaves without a step. -/
inductive Fault where
  /-- An RX byte in a state that violates the reader invariant R26 (I4). Raised by `rxStep`; safe, no run reaches it. -/
  | readerInvariant
  /-- CMD or TX_TAKE in a state that violates the encoder invariant R30 (I4). Raised by `cmdStep` and `txStep`; safe, no run
  reaches it. -/
  | encoderInvariant
  /-- TX_TAKE while the encoder is idle: stuck, "is not an operation" (R81, I5). Raised by `txStep`; safe. -/
  | txTakeNotEnabled
  deriving DecidableEq, Repr

/-- Why an operation has no meaning. -/
inductive Refusal where
  /-- The instruction has no meaning yet. Raised by `exec`'s arms only; safe. -/
  | notModelled (mnemonic : String)
  /-- The transaction spells no operation (I7, I8). Raised by `step`; safe. -/
  | undecodable (why : Reject)
  deriving DecidableEq, Repr

/-- The register operation of a cycle: at most one (R274). -/
inductive RegOp where
  | read (i : Nibble)
  | write (i : Nibble) (v : RegWord)
  deriving DecidableEq, Repr

/-- What one hardware cycle presents: at most one of each (R215, R274). -/
structure Cycle where
  reg : Option RegOp
  rx : Option Byte
  cmd : Option CmdRecord
  /-- The host takes a byte in this cycle, if there is one. -/
  tx : Bool
  deriving DecidableEq, Repr

/-- What the host presents next: one operation (R81), or the operations of one cycle (R215; log 15). -/
inductive Presented where
  | op (t : Transaction)
  | cycle (c : Cycle)
  deriving DecidableEq, Repr

/-- The state. The first nine fields are R20's tuple `S`; `out` is the outputs of the last step (R37); `begun`, `waiting` and
`pending` are the host's side of the ports. -/
structure State where
  /-- Reader state (R23). -/
  rs : ReaderState
  /-- Reader frame buffer (R24). -/
  rbuf : Vector Byte Config.rbufBytes
  /-- Bytes of the candidate frame held (R25). -/
  rcnt : Nibble
  /-- Encoder busy (R27). -/
  ebusy : Bool
  /-- Encoder frame buffer (R28). -/
  tbuf : Vector Byte Config.tbufBytes
  /-- Length of the frame in `tbuf` (R29). -/
  tlen : Nibble
  /-- Index of the next byte to transmit (R29). -/
  tidx : Nibble
  /-- CTRL.EN (R33). -/
  en : Bool
  /-- IDENTITY.ID (R34). -/
  id : Identity
  /-- The outputs of the step just taken, in the order emitted (R14, R37; log 3). -/
  out : List Output
  /-- What has yet to run of the cycle (R215; log 15) or the frame (R51, R84; log 6) begun, the next operation first. -/
  begun : List Instr
  /-- CMD records the host holds while the encoder is busy, the oldest first (R132; log 4). -/
  waiting : List CmdRecord
  /-- What the host has yet to present, the next first (R81; log 1). -/
  pending : List Presented
  deriving DecidableEq, Repr

/-- The state right after reset (R39, R260), with nothing presented by the host (log 1). -/
def State.reset : State where
  rs := .seekSync
  rbuf := Vector.replicate _ 0x00
  rcnt := 0
  ebusy := false
  tbuf := Vector.replicate _ 0x00
  tlen := 0
  tidx := 0
  en := false
  id := 0x0000
  out := []
  begun := []
  waiting := []
  pending := []

end Sys2Proof.Machine
end

