-- ==== Sys2Proof/Machine/Cycle.lean ====
section
/-! DEFINITION. Operations that a hardware implementation accepts in one clock cycle, and the serial order of the step model that
they stand for (44_control.md R215, 60_exceptions.md R241, 70_reset_and_hazards.md R274). -/

namespace Sys2Proof.Machine

/-- The read of a cycle. -/
def Cycle.reads (c : Cycle) : List Instr :=
  match c.reg with
  | some (.read i) => [.regRead i]
  | _ => []

/-- The write of a cycle. -/
def Cycle.writes (c : Cycle) : List Instr :=
  match c.reg with
  | some (.write i v) => [.regWrite i v]
  | _ => []

/-- The serial order of a cycle: REG_READ, RX_BYTE, CMD, TX_TAKE, REG_WRITE (R215). DESIGN CHOICE (log 15), unsafe: R215 puts RX_BYTE
and CMD/TX_TAKE in one place and R64 gives reader and encoder no order, and the model runs RX_BYTE before CMD and CMD before
TX_TAKE. `busy` is EBUSY as the cycle begins:
TX_TAKE is there only if it is set, since without a byte TX_TAKE is no operation (R81) and a command accepted in the cycle
gives its first byte from the next one (R274). -/
def Cycle.serial (c : Cycle) (busy : Bool) : List Instr :=
  c.reads ++ (c.rx.map .rxByte).toList ++ (c.cmd.map .cmd).toList ++
    (if c.tx && busy then [.txTake] else []) ++ c.writes

/-- The host presents a cycle after what it presents already (R215). -/
def State.presentCycle (c : Cycle) (s : State) : State := { s with pending := s.pending ++ [.cycle c] }

end Sys2Proof.Machine
end

