-- ==== Sys2Proof/Machine/Catalog.lean ====
section
/-! DEFINITION. The command catalog and the recognised TYPE set (30_encoding.md R72, R73), constants of the hardware (R67). -/

namespace Sys2Proof.Machine

/-- The catalog: opcode and argument count of `setid` .. `send` (R72). -/
def catalogTable : List (Byte × Nibble) :=
  [(0xC0, 2), (0xC1, 2), (0xC2, 0), (0xC3, 3), (0xC4, 2), (0xC5, 2), (0xC6, 1), (0xC7, 1), (0xC8, 7)]

/-- `argc(op)`: the catalog's argument count, defined for a catalog opcode only (R72, R131). -/
def catalogArgc (op : Byte) : Option Nibble :=
  (catalogTable.find? (fun row => row.1 == op)).map (·.2)

/-- `catalog(op)` (R72). -/
def catalog (op : Byte) : Bool := (catalogArgc op).isSome

/-- `recognised(t)` (R73). -/
def recognised (t : Byte) : Bool :=
  catalog t || t == Config.bootType || t == Config.telemetryType

end Sys2Proof.Machine
end

