-- ==== Sys2Proof/Machine/Crc.lean ====
section
/-! DEFINITION. The CRC unit: CRC-8/MAXIM and frame validation (40_crc.md R100 to R104). -/

namespace Sys2Proof.Machine

/-- One bit of the CRC update: shift right, folding the polynomial in when bit 0 was 1 (R100). -/
def crcShift (c : Byte) : Byte :=
  if c.getLsbD 0 then (c >>> 1) ^^^ Config.crcPolyR else c >>> 1

/-- `n` bits of the CRC update (R100). -/
def crcShifts : Nat → Byte → Byte
  | 0, c => c
  | n + 1, c => crcShifts n (crcShift c)

/-- `crc8_step(c, b)` (R100). -/
def crc8Step (c b : Byte) : Byte := crcShifts 8 (c ^^^ b)

/-- `crc8(s)` (R101). -/
def crc8 (s : List Byte) : Byte := s.foldl crc8Step Config.crcInit ^^^ Config.crcXorOut

/-- `f[1 .. n-2]`: what the CRC covers, TYPE to the last argument (R102, R103). -/
def frameBody (f : List Byte) : List Byte := (f.drop 1).take (f.length - 2)

/-- `validate(f)`: the CRC of TYPE, LEN and ARGS equals the last byte (R103). -/
def validate (f : List Byte) : Bool := crc8 (frameBody f) == f.getD (f.length - 1) 0

/-- The incremental check: the CRC run over TYPE to the CRC byte itself leaves zero (R104). -/
def validateIncremental (f : List Byte) : Bool := crc8 (f.drop 1) == 0

end Sys2Proof.Machine
end

