-- ==== Sys2Proof/Machine/Operands.lean ====
section
/-! DEFINITION. Operand assembly: buffer bytes, the argument bytes of a record, the telemetry fields, rssi, and the frame of a command
(30_encoding.md R70, R76, R79, R82; 41_encoder.md R120; 43_dispatch.md R194, R196). -/

namespace Sys2Proof.Machine

/-- A buffer with `bytes` written from index `k` on; what falls outside it is not stored. -/
def writeFrom {n : Nat} (v : Vector Byte n) (k : Nat) : List Byte → Vector Byte n
  | [] => v
  | b :: bs => writeFrom (v.setIfInBounds k b) (k + 1) bs

/-- The byte of a buffer at an index that an invariant bounds (R26, R30). -/
def byteAt {n : Nat} (v : Vector Byte n) (i : Nat) : Byte := v.toList.getD i 0

/-- `args[0..9]` of a record: the argument bytes, then zeros (R79). -/
def paddedArgs (a : List Byte) : Args := writeFrom (Vector.replicate _ 0x00) 0 a

/-- The argument bytes of a CMD record that count: `arg[0 .. argc-1]` (R78). -/
def usedArgs (c : CmdRecord) : List Byte := c.arg.toList.take c.argc.toNat

/-- `u16be(hi, lo) = hi * 256 + lo` (R12). -/
def u16be (hi lo : Byte) : Word := BitVec.ofNat 16 (hi.toNat * 256 + lo.toNat)

/-- `rssi_q1(raw) = sext_16(raw) - 140`, in half-dBm (R196). -/
def rssiQ1 (raw : Byte) : Word := raw.signExtend 16 - 140

/-- `encode(op, a)`: the frame of a catalog command whose count is `argc` (R120). -/
def commandFrame (op : Byte) (argc : Nibble) (a : List Byte) : List Byte :=
  let body := op :: argc.setWidth 8 :: a
  Config.sync :: body ++ [crc8 body]

/-- The candidate frame's bytes held so far, `rbuf[0 .. rcnt-1]` (R24). -/
def State.candidate (s : State) : List Byte := s.rbuf.toList.take s.rcnt.toNat

/-- `decode_header(buf)`: the TYPE byte of a candidate frame's first bytes is recognised (R150). -/
def decodeHeader (buf : List Byte) : Bool := recognised (buf.getD 1 0)

end Sys2Proof.Machine
end

