-- ==== Sys2Proof/Machine/Flags.lean ====
section
/-! DEFINITION. The views and labels computed from state or data. The block has no condition flags (10_state.md R31): what it has is the
STATUS view (R35), a record's well-formed bit (R181) and its status label (R191), and the 2-bit codes of the three. -/

namespace Sys2Proof.Machine

/-- The 2-bit code of `rs` (R23). -/
def ReaderState.code : ReaderState → BitVec 2
  | .seekSync => 0
  | .gotType => 1
  | .accumulating => 2

/-- The 2-bit code of `class` (R79). -/
def FrameClass.code : FrameClass → BitVec 2
  | .ack => 0
  | .boot => 1
  | .telem => 2

/-- The 2-bit code of `ack_kind` (R79). -/
def AckKind.code : AckKind → BitVec 2
  | .ok => 0
  | .remoteBadCrc => 1
  | .nack => 2
  | .none => 3

/-- The STATUS register: `ebusy << 6 | rcnt << 2 | rs` (R35, R210). -/
def State.status (s : State) : RegWord :=
  ((BitVec.ofBool s.ebusy).setWidth Config.regw <<< 6) ||| (s.rcnt.setWidth Config.regw <<< 2) |||
    s.rs.code.setWidth Config.regw

/-- The class of a recognised TYPE, by TYPE alone (R74, R180). -/
def classOf (t : Byte) : FrameClass :=
  if catalog t then .ack else if t = Config.bootType then .boot else .telem

/-- `wellformed(class, n)` (R181). -/
def wellformed (c : FrameClass) (n : Nat) : Bool :=
  match c with
  | .ack => n == 1
  | .boot => true
  | .telem => n == 7

/-- `ack_kind(s)` of a status byte (R191). -/
def ackKind (st : Byte) : AckKind :=
  if st = 0x00 then .ok else if st = 0x03 then .remoteBadCrc else .nack

/-- `classify(f, id)`: the FRAME record of a valid frame with a recognised TYPE (R180). -/
def classify (f : List Byte) (id : Identity) : FrameRec :=
  let t := f.getD 1 0
  let n := (f.getD 2 0).toNat
  let a := (f.drop 3).take n
  let arg := fun i => a.getD i 0
  let c := classOf t
  let wf := wellformed c n
  let isAck := wf && c == .ack
  let isTelem := wf && c == .telem
  { cls := c
    type := t
    len := BitVec.ofNat 4 n
    args := paddedArgs a
    crc := f.getD (3 + n) 0
    wf := wf
    ackStatus := if isAck then arg 0 else 0x00
    ackKind := if isAck then ackKind (arg 0) else .none
    src := if isTelem then u16be (arg 0) (arg 1) else 0
    burst := if isTelem then u16be (arg 2) (arg 3) else 0
    pktid := if isTelem then u16be (arg 4) (arg 5) else 0
    rssiRaw := if isTelem then arg 6 else 0
    rssiQ1 := if isTelem then rssiQ1 (arg 6) else 0
    dst := if isTelem then id else 0 }

end Sys2Proof.Machine
end

