-- ==== Sys2Proof/Machine/Ops.lean ====
section
/-! DEFINITION. The named operations on the state that the meanings share: output, resynchronisation (the block's only trap entry,
60_exceptions.md R240), the two buffers, the two invariants, and taking the next operation from the host. -/

namespace Sys2Proof.Machine

-- Event codes (R231)
/-- `BAD_TYPE` (R232). -/
def evBadType : Byte := 0x01
/-- `BAD_LEN` (R233). -/
def evBadLen : Byte := 0x02
/-- `BAD_CRC` (R234). -/
def evBadCrc : Byte := 0x03
/-- `ENC_BAD_OPCODE` (R235). -/
def evEncBadOpcode : Byte := 0x11
/-- `ENC_BAD_ARGC` (R236). -/
def evEncBadArgc : Byte := 0x12

/-- A step begins with no output: the last step's are gone (R20, R37). -/
def State.clearOut (s : State) : State := { s with out := [] }

/-- `emit` (R14). -/
def State.emit (o : Output) (s : State) : State := { s with out := s.out ++ [o] }

/-- `S.rs <- SEEK_SYNC; S.rcnt <- 0`: the reader looks for SYNC again; `rbuf` keeps its contents (R240). -/
def State.seek (s : State) : State := { s with rs := .seekSync, rcnt := 0 }

/-- Resynchronisation: report the error and seek, saving nothing (R240). The block's only trap entry; it completes within the
step, so there is no return (R243). -/
def State.resync (e : Event) (s : State) : State := (s.emit (.rxevt e)).seek

/-- The reader stores a byte at index `k` of the candidate frame and moves to `rs` (R152, R154, R156, R158). -/
def State.collect (k : Nat) (b : Byte) (rs : ReaderState) (s : State) : State :=
  { s with rbuf := s.rbuf.setIfInBounds k b, rcnt := BitVec.ofNat 4 (k + 1), rs := rs }

/-- The encoder loads a frame (R132). -/
def State.loadFrame (f : List Byte) (s : State) : State :=
  { s with tbuf := writeFrom s.tbuf 0 f, tlen := BitVec.ofNat 4 f.length, tidx := 0, ebusy := true }

/-- The encoder is ready for its next byte (R133). -/
def State.nextTx (s : State) : State := { s with tidx := s.tidx + 1 }

/-- The encoder has handed over its last byte (R133). -/
def State.endTx (s : State) : State := { s with ebusy := false, tidx := 0, tlen := 0 }

/-- The host holds a CMD record until the encoder is idle (R81, R132). DESIGN CHOICE (log 4), unsafe. -/
def State.hold (c : CmdRecord) (s : State) : State := { s with waiting := s.waiting ++ [c] }

/-- These operations are what is begun (R51, R215; logs 6 and 15). -/
def State.setBegun (is : List Instr) (s : State) : State := { s with begun := is }

/-- These operations are to run next, one a step, before those begun already. -/
def State.beginOps (is : List Instr) (s : State) : State := s.setBegun (is ++ s.begun)

/-- The reader invariant (R26): each state's condition; the conditions exclude one another, so each is an equivalence. -/
def State.readerOk (s : State) : Bool :=
  match s.rs with
  | .seekSync => s.rcnt == 0
  | .gotType => s.rcnt == 1 && s.rbuf[0] == Config.sync
  | .accumulating =>
    2 ≤ s.rcnt.toNat && s.rcnt.toNat ≤ 13 && s.rbuf[0] == Config.sync && recognised s.rbuf[1] &&
      (s.rcnt.toNat < 3 || (s.rbuf[2].toNat ≤ Config.maxLen && s.rcnt.toNat < s.rbuf[2].toNat + 4))

/-- The encoder invariant (R30). -/
def State.encoderOk (s : State) : Bool :=
  if s.ebusy then
    match catalogArgc s.tbuf[1] with
    | some k =>
      s.tlen.toNat == k.toNat + 4 && s.tidx.toNat < s.tlen.toNat && s.tbuf[0] == Config.sync &&
        s.tbuf[2] == k.setWidth 8
    | none => false
  else s.tlen == 0 && s.tidx == 0

/-- What the host presents next (R81, R215; logs 1 and 15), and the state without it. A cycle begins here, with EBUSY as it is now:
its first operation is taken and the others are begun. No operation when nothing is presented, or a cycle with nothing to do. -/
def State.fetchPresented (s : State) : Option (Except Reject Instr) × State :=
  match s.pending with
  | [] => (none, s)
  | .op t :: ps => (some (decode t), { s with pending := ps })
  | .cycle c :: ps =>
    match c.serial s.ebusy with
    | [] => (none, { s with pending := ps })
    | i :: is => (some (.ok i), { s with begun := is, pending := ps })

/-- Between cycles a held CMD record comes first, once the encoder is idle (R132; log 4). -/
def State.fetchBetween (s : State) : Option (Except Reject Instr) × State :=
  match s.waiting with
  | [] => s.fetchPresented
  | c :: cs => if s.ebusy then s.fetchPresented else (some (.ok (.cmd c)), { s with waiting := cs })

/-- The next operation, and the state without it: a cycle begun runs to its end, and so does a chunk of bytes begun (R51, R215;
logs 6 and 15). -/
def State.fetch (s : State) : Option (Except Reject Instr) × State :=
  match s.begun with
  | [] => s.fetchBetween
  | i :: is => (some (.ok i), s.setBegun is)

end Sys2Proof.Machine
end

