-- ==== Sys2Proof/Machine/Encoder.lean ====
section
/-! DEFINITION. The frame encoder: CMD, TX_TAKE and the nine catalog commands (41_encoder.md R120 to R135). -/

namespace Sys2Proof.Machine

/-- What an idle encoder does with a command record: reject it with an event or load its frame (R130 to R132). -/
def takeCommand (c : CmdRecord) (s : State) : State :=
  match catalogArgc c.opcode with
  | none => s.emit (.encevt ⟨evEncBadOpcode, c.opcode, c.argc.setWidth 8⟩)
  | some k =>
    if c.argc = k then s.loadFrame (commandFrame c.opcode c.argc (usedArgs c))
    else s.emit (.encevt ⟨evEncBadArgc, c.opcode, c.argc.setWidth 8⟩)

/-- CMD on the block (R132): held by the host while the encoder is busy (I6, log 4); a state outside R30 faults (I4). -/
def cmdStep (c : CmdRecord) (s : State) : Host.Outcome State Fault Refusal :=
  if s.encoderOk then
    if s.ebusy then .next (s.hold c) else .next (takeCommand c s)
  else .fault .encoderInvariant

/-- The next frame byte goes out (R133). -/
def takeByte (s : State) : State :=
  let t := s.emit (.tx (byteAt s.tbuf s.tidx.toNat))
  if s.tidx.toNat + 1 = s.tlen.toNat then t.endTx else t.nextTx

/-- TX_TAKE on the block (R133): no step while the encoder is idle (R81, I5, log 5); a state outside R30 faults (I4). -/
def txStep (s : State) : Host.Outcome State Fault Refusal :=
  if s.encoderOk then
    if s.ebusy then .next (takeByte s) else .fault .txTakeNotEnabled
  else .fault .encoderInvariant

/-- CMD (R132). -/
def execCmd (c : CmdRecord) (s : State) : Host.Outcome State Fault Refusal := cmdStep c s.clearOut

/-- TX_TAKE (R133). -/
def execTxTake (s : State) : Host.Outcome State Fault Refusal := txStep s.clearOut

/-- `setid` (R121). -/
def execSetid (argc : Nibble) (arg : Args) (s : State) : Host.Outcome State Fault Refusal :=
  cmdStep ⟨0xC0, argc, arg⟩ s.clearOut

/-- `cmpid` (R122). -/
def execCmpid (argc : Nibble) (arg : Args) (s : State) : Host.Outcome State Fault Refusal :=
  cmdStep ⟨0xC1, argc, arg⟩ s.clearOut

/-- `resetrx` (R123). -/
def execResetrx (argc : Nibble) (arg : Args) (s : State) : Host.Outcome State Fault Refusal :=
  cmdStep ⟨0xC2, argc, arg⟩ s.clearOut

/-- `setfreq` (R124). -/
def execSetfreq (argc : Nibble) (arg : Args) (s : State) : Host.Outcome State Fault Refusal :=
  cmdStep ⟨0xC3, argc, arg⟩ s.clearOut

/-- `setchanbw` (R125). -/
def execSetchanbw (argc : Nibble) (arg : Args) (s : State) : Host.Outcome State Fault Refusal :=
  cmdStep ⟨0xC4, argc, arg⟩ s.clearOut

/-- `setdrate` (R126). -/
def execSetdrate (argc : Nibble) (arg : Args) (s : State) : Host.Outcome State Fault Refusal :=
  cmdStep ⟨0xC5, argc, arg⟩ s.clearOut

/-- `setmod` (R127). -/
def execSetmod (argc : Nibble) (arg : Args) (s : State) : Host.Outcome State Fault Refusal :=
  cmdStep ⟨0xC6, argc, arg⟩ s.clearOut

/-- `settxpow` (R128). -/
def execSettxpow (argc : Nibble) (arg : Args) (s : State) : Host.Outcome State Fault Refusal :=
  cmdStep ⟨0xC7, argc, arg⟩ s.clearOut

/-- `send` (R129). -/
def execSend (argc : Nibble) (arg : Args) (s : State) : Host.Outcome State Fault Refusal :=
  cmdStep ⟨0xC8, argc, arg⟩ s.clearOut

end Sys2Proof.Machine
end

