-- ==== Sys2Proof/Machine/Reader.lean ====
section
/-! DEFINITION. The link reader: RX_BYTE and the SYNC marker (42_reader.md R150 to R164). -/

namespace Sys2Proof.Machine

/-- The byte after TYPE is LEN (R156, R157). -/
def readLen (b : Byte) (s : State) : State :=
  if b.toNat ≤ Config.maxLen then s.collect 2 b .accumulating
  else s.resync ⟨evBadLen, b, s.rbuf[1]⟩

/-- The byte that completes the candidate frame is its CRC byte (R159, R160). -/
def finishFrame (b : Byte) (s : State) : State :=
  let f := s.candidate ++ [b]
  if validate f then (s.emit (.frame (classify f s.id))).seek
  else s.resync ⟨evBadCrc, b, crc8 (frameBody f)⟩

/-- The reader's step on one byte while it is enabled (R164). -/
def readByte (b : Byte) (s : State) : State :=
  match s.rs with
  | .seekSync => if b = Config.sync then s.collect 0 b .gotType else s
  | .gotType =>
    if decodeHeader [s.rbuf[0], b] then s.collect 1 b .accumulating else s.resync ⟨evBadType, b, 0x00⟩
  | .accumulating =>
    if s.rcnt = 2 then readLen b s
    else if s.rcnt.toNat + 1 < s.rbuf[2].toNat + 4 then s.collect s.rcnt.toNat b .accumulating
    else finishFrame b s

/-- RX_BYTE on the block: dropped while `EN = 0` (R161), else the reader's step; a state outside R26 faults (I4). -/
def rxStep (b : Byte) (s : State) : Host.Outcome State Fault Refusal :=
  if s.en then
    if s.readerOk then .next (readByte b s) else .fault .readerInvariant
  else .next s

/-- A chunk of bytes on RX: that many RX_BYTE in its order (R51). The first byte arrives in this step and the others are begun, since
a step is one operation and takes one byte (R230, R241, I7). -/
def rxChunk (bytes : List Byte) (s : State) : Host.Outcome State Fault Refusal :=
  match bytes with
  | [] => .next s
  | b :: bs => rxStep b (s.beginOps (bs.map .rxByte))

/-- RX_BYTE (R151). -/
def execRxByte (b : Byte) (s : State) : Host.Outcome State Fault Refusal := rxStep b s.clearOut

/-- SYNC (R152): the RX_BYTE of the marker. DEDUCED (log 7), safe. -/
def execSync (s : State) : Host.Outcome State Fault Refusal := rxStep Config.sync s.clearOut

end Sys2Proof.Machine
end

