-- ==== Sys2Proof/Machine/Frames.lean ====
section
/-! DEFINITION. The received frames: acknowledgments, boot and telemetry (43_dispatch.md R180 to R198). Each is the RX_BYTE of the
frame's bytes in order (R84 `rxframe`), which is what the examples of R182 to R195 feed: one byte a step, the first in the row's own
step. The record a valid frame gives is `classify` (Machine/Flags.lean), called where R159 calls it, in the step of the CRC byte.
DESIGN CHOICE (log 6), safe. -/

namespace Sys2Proof.Machine

/-- The bytes of one frame arrive on RX, back to back, one a step (R51, R70, R84, R165). -/
def rxFrame (type : Byte) (args : List Byte) (crc : Byte) (s : State) : Host.Outcome State Fault Refusal :=
  rxChunk (frameBytes type args crc) s.clearOut

/-- Acknowledgment of `setid` (R182). -/
def execAckSetid (args : List Byte) (crc : Byte) (s : State) : Host.Outcome State Fault Refusal :=
  rxFrame 0xC0 args crc s

/-- Acknowledgment of `cmpid` (R183). -/
def execAckCmpid (args : List Byte) (crc : Byte) (s : State) : Host.Outcome State Fault Refusal :=
  rxFrame 0xC1 args crc s

/-- Acknowledgment of `resetrx` (R184). -/
def execAckResetrx (args : List Byte) (crc : Byte) (s : State) : Host.Outcome State Fault Refusal :=
  rxFrame 0xC2 args crc s

/-- Acknowledgment of `setfreq` (R185). -/
def execAckSetfreq (args : List Byte) (crc : Byte) (s : State) : Host.Outcome State Fault Refusal :=
  rxFrame 0xC3 args crc s

/-- Acknowledgment of `setchanbw` (R186). -/
def execAckSetchanbw (args : List Byte) (crc : Byte) (s : State) : Host.Outcome State Fault Refusal :=
  rxFrame 0xC4 args crc s

/-- Acknowledgment of `setdrate` (R187). -/
def execAckSetdrate (args : List Byte) (crc : Byte) (s : State) : Host.Outcome State Fault Refusal :=
  rxFrame 0xC5 args crc s

/-- Acknowledgment of `setmod` (R188). -/
def execAckSetmod (args : List Byte) (crc : Byte) (s : State) : Host.Outcome State Fault Refusal :=
  rxFrame 0xC6 args crc s

/-- Acknowledgment of `settxpow` (R189). -/
def execAckSettxpow (args : List Byte) (crc : Byte) (s : State) : Host.Outcome State Fault Refusal :=
  rxFrame 0xC7 args crc s

/-- Acknowledgment of `send` (R190). -/
def execAckSend (args : List Byte) (crc : Byte) (s : State) : Host.Outcome State Fault Refusal :=
  rxFrame 0xC8 args crc s

/-- Boot frame (R193). -/
def execBoot (args : List Byte) (crc : Byte) (s : State) : Host.Outcome State Fault Refusal :=
  rxFrame Config.bootType args crc s

/-- Telemetry frame (R194, R195). -/
def execTelemetry (args : List Byte) (crc : Byte) (s : State) : Host.Outcome State Fault Refusal :=
  rxFrame Config.telemetryType args crc s

end Sys2Proof.Machine
end

