-- ==== Sys2Proof/Machine/Registers.lean ====
section
/-! DEFINITION. The register operations and RESET (44_control.md R210 to R216; 70_reset_and_hazards.md R260). -/

namespace Sys2Proof.Machine

/-- IDENTITY.ID as the value of its register (R34). DESIGN CHOICE (log 16), safe: IDW = REGW, so no bit changes. -/
def regOfIdentity (id : Identity) : RegWord := id.setWidth Config.regw

/-- The identity that a value written to IDENTITY gives (R34, R213). DESIGN CHOICE (log 16), safe: IDW = REGW, so no bit
changes. -/
def identityOfReg (v : RegWord) : Identity := v.setWidth Config.idw

/-- The value of a register index (R210). -/
def State.register (s : State) (i : Nibble) : RegWord :=
  match i.toNat with
  | 0 => (BitVec.ofBool s.en).setWidth Config.regw
  | 1 => regOfIdentity s.id
  | 2 => s.status
  | _ => 0x0000

/-- `ctrl_write(v)`: bit 0 is EN, and EN = 0 stops the reader without an event (R212, R214). -/
def State.writeCtrl (v : RegWord) (s : State) : State :=
  if v.getLsbD 0 then { s with en := true } else { s.seek with en := false }

/-- A write to a register index; STATUS and the reserved indices ignore it (R211, R36). -/
def State.writeRegister (i : Nibble) (v : RegWord) (s : State) : State :=
  match i.toNat with
  | 0 => s.writeCtrl v
  | 1 => { s with id := identityOfReg v }
  | _ => s

/-- REG_READ (R210): the value goes to the host (log 3). -/
def execRegRead (i : Nibble) (s : State) : Host.Outcome State Fault Refusal :=
  .next (s.clearOut.emit (.regData (s.register i)))

/-- REG_WRITE (R211). -/
def execRegWrite (i : Nibble) (v : RegWord) (s : State) : Host.Outcome State Fault Refusal :=
  .next (s.clearOut.writeRegister i v)

/-- RESET (R260): every field of the block takes its reset value; the host's own lists are not the block's (R20, R271; log 13). -/
def execReset (s : State) : Host.Outcome State Fault Refusal :=
  .next { State.reset with begun := s.begun, waiting := s.waiting, pending := s.pending }

end Sys2Proof.Machine
end

