-- ==== Sys2Proof/Machine/Dispatch.lean ====
section
/-! DEFINITION. One arm per instruction: the meaning each row of the opcode table has. -/

namespace Sys2Proof.Machine

/-- What an instruction does to a state. -/
def exec (i : Instr) (s : State) : Host.Outcome State Fault Refusal :=
  match i with
  | .rxByte b => Sys2Proof.Machine.execRxByte b s
  | .cmd c => Sys2Proof.Machine.execCmd c s
  | .txTake => Sys2Proof.Machine.execTxTake s
  | .regRead j => Sys2Proof.Machine.execRegRead j s
  | .regWrite j v => Sys2Proof.Machine.execRegWrite j v s
  | .reset => Sys2Proof.Machine.execReset s
  | .setid argc arg => Sys2Proof.Machine.execSetid argc arg s
  | .cmpid argc arg => Sys2Proof.Machine.execCmpid argc arg s
  | .resetrx argc arg => Sys2Proof.Machine.execResetrx argc arg s
  | .setfreq argc arg => Sys2Proof.Machine.execSetfreq argc arg s
  | .setchanbw argc arg => Sys2Proof.Machine.execSetchanbw argc arg s
  | .setdrate argc arg => Sys2Proof.Machine.execSetdrate argc arg s
  | .setmod argc arg => Sys2Proof.Machine.execSetmod argc arg s
  | .settxpow argc arg => Sys2Proof.Machine.execSettxpow argc arg s
  | .send argc arg => Sys2Proof.Machine.execSend argc arg s
  | .sync => Sys2Proof.Machine.execSync s
  | .ackSetid args crc => Sys2Proof.Machine.execAckSetid args crc s
  | .ackCmpid args crc => Sys2Proof.Machine.execAckCmpid args crc s
  | .ackResetrx args crc => Sys2Proof.Machine.execAckResetrx args crc s
  | .ackSetfreq args crc => Sys2Proof.Machine.execAckSetfreq args crc s
  | .ackSetchanbw args crc => Sys2Proof.Machine.execAckSetchanbw args crc s
  | .ackSetdrate args crc => Sys2Proof.Machine.execAckSetdrate args crc s
  | .ackSetmod args crc => Sys2Proof.Machine.execAckSetmod args crc s
  | .ackSettxpow args crc => Sys2Proof.Machine.execAckSettxpow args crc s
  | .ackSend args crc => Sys2Proof.Machine.execAckSend args crc s
  | .boot args crc => Sys2Proof.Machine.execBoot args crc s
  | .telemetry args crc => Sys2Proof.Machine.execTelemetry args crc s

end Sys2Proof.Machine
end

