-- ==== Sys2Proof/Machine/Step.lean ====
section
/-! DEFINITION. One step: the next operation the host presents (30_encoding.md R81, 92_eei_decisions.md D2). -/

namespace Sys2Proof.Machine

/-- One step. With nothing presented the block changes nothing and puts out nothing (R22, R37, R38; log 11). -/
def step (s : State) : Host.Outcome State Fault Refusal :=
  match s.fetch with
  | (none, t) => .next t.clearOut
  | (some (.ok i), t) => exec i t
  | (some (.error why), _) => .refused (.undecodable why)

/-- The host presents a table row's instruction next, with nothing begun and no command held before it (log 1). -/
def State.withFetchWord (s : State) (nbits w : Nat) : State :=
  { s with begun := [], waiting := [], pending := .op (tableTransaction nbits w) :: s.pending }

end Sys2Proof.Machine
end

