-- ==== Sys2Proof/Safety.lean ====
section
/-! DEFINITION. The terms that statements use: which parts of the block a step leaves unchanged, the invariants of 10_state.md, runs and
what the host observes of them (70_reset_and_hazards.md R273), and the shapes shared by statements on several instructions. -/

namespace Sys2Proof.Safety

open Sys2Proof.Machine

/-- The reader's fields are unchanged (R23 to R25). -/
def ReaderSame (s t : State) : Prop := t.rs = s.rs ∧ t.rbuf = s.rbuf ∧ t.rcnt = s.rcnt

/-- The encoder's fields are unchanged (R27 to R29). -/
def EncoderSame (s t : State) : Prop :=
  t.ebusy = s.ebusy ∧ t.tbuf = s.tbuf ∧ t.tlen = s.tlen ∧ t.tidx = s.tidx

/-- CTRL.EN and IDENTITY are unchanged (R33, R34). -/
def RegistersSame (s t : State) : Prop := t.en = s.en ∧ t.id = s.id

/-- The whole block state of R20 is unchanged. -/
def BlockSame (s t : State) : Prop := ReaderSame s t ∧ EncoderSame s t ∧ RegistersSame s t

/-- A byte of the recognised TYPE set, as R73 writes it. -/
def RecognisedType (b : Byte) : Prop := (0xC0 ≤ b.toNat ∧ b.toNat ≤ 0xC8) ∨ b = 0xF0 ∨ b = 0xFF

/-- The reader invariant, as R26 writes it. -/
def ReaderInvariant (s : State) : Prop :=
  (s.rs = .seekSync ↔ s.rcnt.toNat = 0) ∧
  (s.rs = .gotType ↔ s.rcnt.toNat = 1 ∧ s.rbuf[0] = 0x80) ∧
  (s.rs = .accumulating ↔
    2 ≤ s.rcnt.toNat ∧ s.rcnt.toNat ≤ 13 ∧ s.rbuf[0] = 0x80 ∧ RecognisedType s.rbuf[1] ∧
      (3 ≤ s.rcnt.toNat → s.rbuf[2].toNat ≤ 10 ∧ s.rcnt.toNat < s.rbuf[2].toNat + 4))

/-- The encoder invariant, as R30 writes it. -/
def EncoderInvariant (s : State) : Prop :=
  (s.ebusy = false → s.tlen = 0 ∧ s.tidx = 0) ∧
  (s.ebusy = true →
    (∃ k, catalogArgc s.tbuf[1] = some k ∧ s.tlen.toNat = k.toNat + 4 ∧ s.tbuf[2].toNat = k.toNat) ∧
      s.tlen.toNat ∈ [4, 5, 6, 7, 11] ∧ s.tidx.toNat < s.tlen.toNat ∧ s.tbuf[0] = 0x80)

/-- A stopped reader is in SEEK_SYNC (R161). -/
def StoppedInvariant (s : State) : Prop := s.en = false → s.rs = .seekSync

/-- What every reachable state has: R26, R30 and R161's invariant. -/
def BlockInvariant (s : State) : Prop := ReaderInvariant s ∧ EncoderInvariant s ∧ StoppedInvariant s

/-- A run of instructions: its end state and each step's outputs, in step order (R273); none if a step gives no next state. -/
def observe : List Instr → State → Option (State × List (List Output))
  | [], s => some (s, [])
  | i :: is, s =>
    match exec i s with
    | .next t => (observe is t).map fun r => (r.1, t.out :: r.2)
    | _ => none

/-- A run of steps: its end state and each step's outputs, in step order (R273); none if a step gives no next state. -/
def runSteps : Nat → State → Option (State × List (List Output))
  | 0, s => some (s, [])
  | n + 1, s =>
    match step s with
    | .next t => (runSteps n t).map fun r => (r.1, t.out :: r.2)
    | _ => none

/-- A run is complete when every accepted command has been fully transmitted (R273). -/
def Complete (s : State) : Prop := s.ebusy = false

/-- RX_BYTE of each byte in turn (R51). -/
def rxRun (bytes : List Byte) : List Instr := bytes.map .rxByte

/-- A wire frame with its right CRC (R70, R84 `rxframe`). -/
def wireFrame (type : Byte) (args : List Byte) : List Byte :=
  0x80 :: type :: BitVec.ofNat 8 args.length :: args ++ [crc8 (type :: BitVec.ofNat 8 args.length :: args)]

/-- The reader runs and looks for SYNC (R33, R26). -/
def Ready (s : State) : Prop := s.en = true ∧ s.rs = .seekSync ∧ s.rcnt = 0

/-- The encoder is idle (R30). -/
def Idle (s : State) : Prop := s.ebusy = false ∧ s.tlen = 0 ∧ s.tidx = 0

/-- The FRAME record with every field that R79 leaves to class and `wf` at zero. -/
def plainRecord (cls : FrameClass) (type : Byte) (args : List Byte) (wf : Bool) : FrameRec where
  cls := cls
  type := type
  len := BitVec.ofNat 4 args.length
  args := paddedArgs args
  crc := crc8 (type :: BitVec.ofNat 8 args.length :: args)
  wf := wf
  ackStatus := 0
  ackKind := .none
  src := 0
  burst := 0
  pktid := 0
  rssiRaw := 0
  rssiQ1 := 0
  dst := 0

/-- A frame reaches a ready reader, one byte a step (R51, R241; log 6): its own step takes SYNC, begins the other bytes and puts out
nothing; the steps that follow read them, and the last one alone puts out something, `o`. The reader then seeks, `rbuf` holds the
frame less its CRC byte (R24, R159), everything else is as before. -/
def ReadsFrame (i : Instr) (type : Byte) (args : List Byte) (crc : Byte) (s : State) (o : Output) : Prop :=
  ∃ t u, exec i s = .next t ∧ t.out = [] ∧ t.rs = .gotType ∧ t.rcnt = 1 ∧ t.rbuf[0] = 0x80 ∧
    (∀ j, 1 ≤ j → byteAt t.rbuf j = byteAt s.rbuf j) ∧ EncoderSame s t ∧ RegistersSame s t ∧
    t.begun = rxRun (type :: BitVec.ofNat 8 args.length :: args ++ [crc]) ++ s.begun ∧
    runSteps (args.length + 3) t = some (u, List.replicate (args.length + 2) [] ++ [[o]]) ∧ u.rs = .seekSync ∧ u.rcnt = 0 ∧
    u.rbuf.toList.take (args.length + 3) = 0x80 :: type :: BitVec.ofNat 8 args.length :: args ∧
    (∀ j, args.length + 3 ≤ j → byteAt u.rbuf j = byteAt s.rbuf j) ∧
    EncoderSame s u ∧ RegistersSame s u ∧ u.begun = s.begun ∧ u.waiting = s.waiting ∧ u.pending = s.pending

/-- A valid frame reaches a ready reader: its CRC byte gives one FRAME record. -/
def GivesRecord (i : Instr) (type : Byte) (args : List Byte) (s : State) (r : FrameRec) : Prop :=
  ReadsFrame i type args (crc8 (type :: BitVec.ofNat 8 args.length :: args)) s (.frame r)

/-- The nine acknowledgment rows: instruction and TYPE (R182 to R190). -/
def ackRows : List ((List Byte → Byte → Instr) × Byte) :=
  [(.ackSetid, 0xC0), (.ackCmpid, 0xC1), (.ackResetrx, 0xC2), (.ackSetfreq, 0xC3), (.ackSetchanbw, 0xC4),
   (.ackSetdrate, 0xC5), (.ackSetmod, 0xC6), (.ackSettxpow, 0xC7), (.ackSend, 0xC8)]

/-- All eleven FRAME_TYPE rows: instruction and TYPE (R74). -/
def typeRows : List ((List Byte → Byte → Instr) × Byte) :=
  ackRows ++ [(.boot, 0xF0), (.telemetry, 0xFF)]

/-- An idle encoder accepts the instruction's record with its catalog count `k`: `tbuf` holds `80 op k args crc`, and only
the encoder's fields change (R121 to R129, R132). -/
def LoadsFrame (mk : Nibble → Args → Instr) (op : Byte) (k : Nat) : Prop :=
  ∀ (s : State) (arg : Args), Idle s →
    ∃ t, exec (mk (BitVec.ofNat 4 k) arg) s = .next t ∧ t.out = [] ∧ t.ebusy = true ∧
      t.tlen.toNat = k + 4 ∧ t.tidx = 0 ∧
      t.tbuf.toList.take (k + 4) = wireFrame op (arg.toList.take k) ∧
      (∀ j, k + 4 ≤ j → byteAt t.tbuf j = byteAt s.tbuf j) ∧ ReaderSame s t ∧ RegistersSame s t

/-- An idle encoder rejects every other count with ENC_BAD_ARGC and changes nothing (R131, R236). -/
def RejectsCounts (mk : Nibble → Args → Instr) (op : Byte) (k : Nat) : Prop :=
  ∀ (s : State) (argc : Nibble) (arg : Args), Idle s → argc.toNat ≠ k →
    ∃ t, exec (mk argc arg) s = .next t ∧ t.out = [.encevt ⟨0x12, op, argc.setWidth 8⟩] ∧ BlockSame s t

/-- A busy encoder leaves the host holding the record and changes nothing (R132, I6). -/
def WaitsWhileBusy (i : Instr) (c : CmdRecord) : Prop :=
  ∀ s : State, EncoderInvariant s → s.ebusy = true →
    ∃ t, exec i s = .next t ∧ t.out = [] ∧ BlockSame s t ∧ t.waiting = s.waiting ++ [c]

/-- The nine CMD rows: instruction, opcode and argument count (R72). -/
def commandRowsOf : List ((Nibble → Args → Instr) × Byte × Nat) :=
  [(.setid, 0xC0, 2), (.cmpid, 0xC1, 2), (.resetrx, 0xC2, 0), (.setfreq, 0xC3, 3), (.setchanbw, 0xC4, 2),
   (.setdrate, 0xC5, 2), (.setmod, 0xC6, 1), (.settxpow, 0xC7, 1), (.send, 0xC8, 7)]

end Sys2Proof.Safety
end

