-- ==== Sys2Proof/Certificates/Slice0/Obligations.lean ====
section
/-! DEFINITION. The statements for the provers. Each docstring names the rules of spec/ it formalises. -/

open Sys2Proof Sys2Proof.Machine Sys2Proof.Safety

-- Reset and registers

/-- R39: the reset value of every field of the block. -/
def Obligations.ResetStateValues : Prop :=
  State.reset.rs = .seekSync ∧ State.reset.rbuf = Vector.replicate 14 0 ∧ State.reset.rcnt = 0 ∧
    State.reset.ebusy = false ∧ State.reset.tbuf = Vector.replicate 11 0 ∧ State.reset.tlen = 0 ∧
    State.reset.tidx = 0 ∧ State.reset.en = false ∧ State.reset.id = 0

/-- R260: RESET gives every field its reset value from any state, puts out nothing, and CTRL, IDENTITY and STATUS then read 0. -/
def Obligations.ResetFromAnyState : Prop :=
  ∀ s : State, ∃ t, exec .reset s = .next t ∧ t.out = [] ∧ t.rs = .seekSync ∧ t.rcnt = 0 ∧
    t.rbuf = Vector.replicate 14 0 ∧ t.ebusy = false ∧ t.tlen = 0 ∧ t.tidx = 0 ∧ t.tbuf = Vector.replicate 11 0 ∧
    t.en = false ∧ t.id = 0 ∧ (∀ i : Nibble, t.register i = 0)

/-- R210, with log 3 for the form of the value read: REG_READ at every index gives the index's value and changes nothing. -/
def Obligations.RegReadGivesRegister : Prop :=
  ∀ (s : State) (i : Nibble), ∃ t v, exec (.regRead i) s = .next t ∧ t.out = [.regData v] ∧ BlockSame s t ∧
    (i = 0 → v = if s.en then 1 else 0) ∧
    (i = 1 → v = s.id) ∧
    (i = 2 → v.toNat = (if s.ebusy then 64 else 0) + s.rcnt.toNat * 4 + s.rs.code.toNat) ∧
    (3 ≤ i.toNat → v = 0)

/-- R35: STATUS's fields are views of the state, RSTATE never reads 3, RCNT is at most 13 where R26 holds, a write is ignored, and
STATUS reads 0 after reset. -/
def Obligations.StatusFieldsAreViews : Prop :=
  ∀ s : State, (s.register 2).extractLsb' 0 2 = s.rs.code ∧ (s.register 2).extractLsb' 2 4 = s.rcnt ∧
    (s.register 2).getLsbD 6 = s.ebusy ∧ (s.register 2).extractLsb' 7 9 = 0 ∧
    (s.register 2).extractLsb' 0 2 ≠ 3 ∧
    (s.rs = .seekSync → s.rs.code = 0) ∧ (s.rs = .gotType → s.rs.code = 1) ∧ (s.rs = .accumulating → s.rs.code = 2) ∧
    (ReaderInvariant s → s.rcnt.toNat ≤ 13) ∧
    (∀ v, ∃ t, exec (.regWrite 2 v) s = .next t ∧ t.out = [] ∧ BlockSame s t) ∧ State.reset.register 2 = 0

/-- R211, R212, R214: what REG_WRITE does at every index, and what it leaves unchanged. -/
def Obligations.RegWriteEffects : Prop :=
  ∀ (s : State) (i : Nibble) (v : RegWord), ∃ t, exec (.regWrite i v) s = .next t ∧ t.out = [] ∧ EncoderSame s t ∧
    t.rbuf = s.rbuf ∧
    (i = 0 → t.en = v.getLsbD 0 ∧ t.id = s.id ∧ (t.register 0 = if v.getLsbD 0 then 1 else 0) ∧
      (v.getLsbD 0 = false → t.rs = .seekSync ∧ t.rcnt = 0) ∧ (v.getLsbD 0 = true → ReaderSame s t)) ∧
    (i = 1 → t.id = v ∧ t.en = s.en ∧ ReaderSame s t) ∧
    (2 ≤ i.toNat → BlockSame s t)

/-- R34: every 16-bit IDENTITY value reads back as written. -/
def Obligations.IdentityReadsBack : Prop :=
  ∀ (s : State) (v : RegWord), ∃ t u, exec (.regWrite 1 v) s = .next t ∧ exec (.regRead 1) t = .next u ∧
    u.out = [.regData v]

/-- R36: a reserved index reads 0 before and after a write, which changes nothing; neither raises an event. -/
def Obligations.ReservedIndicesReadZero : Prop :=
  ∀ (s : State) (i : Nibble) (v : RegWord), 3 ≤ i.toNat →
    ∃ t u, exec (.regWrite i v) s = .next t ∧ t.out = [] ∧ BlockSame s t ∧
      exec (.regRead i) t = .next u ∧ u.out = [.regData 0] ∧ BlockSame s u

/-- R263, R270: a stop and a start while a frame is open put out nothing and leave the reader looking for SYNC. -/
def Obligations.StopAndStartAbandonsFrame : Prop :=
  ∀ s : State, ∃ t, observe [.regWrite 0 0, .regWrite 0 1] s = some (t, [[], []]) ∧ Ready t ∧ EncoderSame s t ∧
    t.id = s.id

-- Encoder

/-- R73, with the counts of R72 and `decode_header` of R150: the catalog and the recognised TYPE set. -/
def Obligations.CatalogAndTypeSet : Prop :=
  (∀ op : Byte, catalogArgc op =
    if op = 0xC0 ∨ op = 0xC1 ∨ op = 0xC4 ∨ op = 0xC5 then some 2 else if op = 0xC2 then some 0
    else if op = 0xC3 then some 3 else if op = 0xC6 ∨ op = 0xC7 then some 1
    else if op = 0xC8 then some 7 else none) ∧
  (∀ b : Byte, recognised b = true ↔ RecognisedType b) ∧
  (∀ (a b : Byte) (rest : List Byte), decodeHeader (a :: b :: rest) = true ↔ RecognisedType b)

/-- R120, R132: an idle encoder loads the frame of a matching record and nothing else changes. -/
def Obligations.CmdLoadsCatalogFrame : Prop :=
  ∀ (s : State) (c : CmdRecord), Idle s → catalogArgc c.opcode = some c.argc →
    ∃ t, exec (.cmd c) s = .next t ∧ t.out = [] ∧ t.ebusy = true ∧ t.tlen.toNat = c.argc.toNat + 4 ∧ t.tidx = 0 ∧
      t.tbuf.toList.take (c.argc.toNat + 4) = wireFrame c.opcode (c.arg.toList.take c.argc.toNat) ∧
      (∀ j, c.argc.toNat + 4 ≤ j → byteAt t.tbuf j = byteAt s.tbuf j) ∧ ReaderSame s t ∧ RegistersSame s t

/-- R130, R235, and R131's last sentence: a record whose opcode is outside C0 to C8 raises ENC_BAD_OPCODE, whatever its count, and changes nothing. -/
def Obligations.CmdRejectsUnknownOpcode : Prop :=
  ∀ (s : State) (c : CmdRecord), Idle s → (c.opcode.toNat < 0xC0 ∨ 0xC8 < c.opcode.toNat) →
    ∃ t, exec (.cmd c) s = .next t ∧ t.out = [.encevt ⟨0x11, c.opcode, c.argc.setWidth 8⟩] ∧ BlockSame s t

/-- R131, R236: a catalog opcode with another count raises ENC_BAD_ARGC and changes nothing; so do the nine CMD rows; and an
opcode outside the catalog gives ENC_BAD_OPCODE instead, at every count. -/
def Obligations.CmdRejectsWrongCount : Prop :=
  (∀ (s : State) (c : CmdRecord) (k : Nibble), Idle s → catalogArgc c.opcode = some k → c.argc ≠ k →
    ∃ t, exec (.cmd c) s = .next t ∧ t.out = [.encevt ⟨0x12, c.opcode, c.argc.setWidth 8⟩] ∧ BlockSame s t) ∧
  (∀ row ∈ commandRowsOf, RejectsCounts row.1 row.2.1 row.2.2) ∧
  (∀ (s : State) (c : CmdRecord), Idle s → catalogArgc c.opcode = none →
    ∃ t, exec (.cmd c) s = .next t ∧ t.out = [.encevt ⟨0x11, c.opcode, c.argc.setWidth 8⟩] ∧ BlockSame s t)

/-- R132 and I6, with log 4 for where the record waits: while the encoder is busy every command waits and changes nothing. -/
def Obligations.CommandsWaitWhileBusy : Prop :=
  (∀ c : CmdRecord, WaitsWhileBusy (.cmd c) c) ∧
  ∀ row ∈ commandRowsOf, ∀ (argc : Nibble) (arg : Args), WaitsWhileBusy (row.1 argc arg) ⟨row.2.1, argc, arg⟩

/-- R121, R122, R125, R126: the commands of two arguments. -/
def Obligations.TwoArgumentCommandsLoad : Prop :=
  LoadsFrame .setid 0xC0 2 ∧ LoadsFrame .cmpid 0xC1 2 ∧ LoadsFrame .setchanbw 0xC4 2 ∧ LoadsFrame .setdrate 0xC5 2 ∧
  wireFrame 0xC0 [0x00, 0x05] = [0x80, 0xC0, 0x02, 0x00, 0x05, 0x49] ∧
  wireFrame 0xC0 [0x00, 0x00] = [0x80, 0xC0, 0x02, 0x00, 0x00, 0x76] ∧
  wireFrame 0xC0 [0xFF, 0xFF] = [0x80, 0xC0, 0x02, 0xFF, 0xFF, 0xC2] ∧
  wireFrame 0xC1 [0x12, 0x34] = [0x80, 0xC1, 0x02, 0x12, 0x34, 0x5B] ∧
  wireFrame 0xC1 [0x00, 0x00] = [0x80, 0xC1, 0x02, 0x00, 0x00, 0xF9] ∧
  wireFrame 0xC1 [0xFF, 0xFF] = [0x80, 0xC1, 0x02, 0xFF, 0xFF, 0x4D] ∧
  wireFrame 0xC4 [0x00, 0x03] = [0x80, 0xC4, 0x02, 0x00, 0x03, 0x9A] ∧
  wireFrame 0xC4 [0x00, 0x00] = [0x80, 0xC4, 0x02, 0x00, 0x00, 0x78] ∧
  wireFrame 0xC4 [0xFF, 0xFF] = [0x80, 0xC4, 0x02, 0xFF, 0xFF, 0xCC] ∧
  wireFrame 0xC5 [0x02, 0x58] = [0x80, 0xC5, 0x02, 0x02, 0x58, 0x7F] ∧
  wireFrame 0xC5 [0x00, 0x00] = [0x80, 0xC5, 0x02, 0x00, 0x00, 0xF7] ∧
  wireFrame 0xC5 [0xFF, 0xFF] = [0x80, 0xC5, 0x02, 0xFF, 0xFF, 0x43]

/-- R127, R128: the commands of one argument; their frames are acknowledgment frames of the same opcode (R268). -/
def Obligations.OneArgumentCommandsLoad : Prop :=
  LoadsFrame .setmod 0xC6 1 ∧ LoadsFrame .settxpow 0xC7 1 ∧
  wireFrame 0xC6 [0x01] = [0x80, 0xC6, 0x01, 0x01, 0x18] ∧ wireFrame 0xC6 [0x00] = [0x80, 0xC6, 0x01, 0x00, 0x46] ∧
  wireFrame 0xC6 [0xFF] = [0x80, 0xC6, 0x01, 0xFF, 0x73] ∧ wireFrame 0xC7 [0x0F] = [0x80, 0xC7, 0x01, 0x0F, 0xAC] ∧
  wireFrame 0xC7 [0x00] = [0x80, 0xC7, 0x01, 0x00, 0xED] ∧ wireFrame 0xC7 [0xFF] = [0x80, 0xC7, 0x01, 0xFF, 0xD8] ∧
  ∀ a : Byte,
    (encode (.ackSetmod [a] (crc8 [0xC6, 1, a]))).bytes = wireFrame 0xC6 [a] ∧
    (encode (.ackSettxpow [a] (crc8 [0xC7, 1, a]))).bytes = wireFrame 0xC7 [a]

/-- R123, R124, R129: the commands of none, three and seven arguments. -/
def Obligations.OtherCommandsLoad : Prop :=
  LoadsFrame .resetrx 0xC2 0 ∧ LoadsFrame .setfreq 0xC3 3 ∧ LoadsFrame .send 0xC8 7 ∧
  wireFrame 0xC2 [] = [0x80, 0xC2, 0x00, 0x25] ∧
  wireFrame 0xC3 [0x21, 0x62, 0x76] = [0x80, 0xC3, 0x03, 0x21, 0x62, 0x76, 0x35] ∧
  wireFrame 0xC3 [0, 0, 0] = [0x80, 0xC3, 0x03, 0, 0, 0, 0xE4] ∧
  wireFrame 0xC3 [0xFF, 0xFF, 0xFF] = [0x80, 0xC3, 0x03, 0xFF, 0xFF, 0xFF, 0x82] ∧
  wireFrame 0xC8 [0x00, 0x05, 0x00, 0x0A, 0x40, 0x00, 0x01] =
    [0x80, 0xC8, 0x07, 0x00, 0x05, 0x00, 0x0A, 0x40, 0x00, 0x01, 0x65] ∧
  wireFrame 0xC8 [0, 0, 0, 0, 0, 0, 0] = [0x80, 0xC8, 0x07, 0, 0, 0, 0, 0, 0, 0, 0xFA] ∧
  wireFrame 0xC8 [0xFF, 0xFF, 0xFF, 0xFF, 0xFF, 0xFF, 0xFF] =
    [0x80, 0xC8, 0x07, 0xFF, 0xFF, 0xFF, 0xFF, 0xFF, 0xFF, 0xFF, 0xEE]

/-- R133: TX_TAKE on a busy encoder gives `tbuf[tidx]`, and the last byte makes the encoder idle. -/
def Obligations.TxTakeGivesNextByte : Prop :=
  ∀ s : State, EncoderInvariant s → s.ebusy = true →
    ∃ t, exec .txTake s = .next t ∧ (∃ b, s.tbuf[s.tidx.toNat]? = some b ∧ t.out = [.tx b]) ∧ t.tbuf = s.tbuf ∧
      ReaderSame s t ∧ RegistersSame s t ∧
      (s.tidx.toNat + 1 = s.tlen.toNat → Idle t) ∧
      (s.tidx.toNat + 1 ≠ s.tlen.toNat → t.ebusy = true ∧ t.tidx.toNat = s.tidx.toNat + 1 ∧ t.tlen = s.tlen)

/-- R81 and I5, with log 5 for the form of the stop: TX_TAKE has no step exactly while the encoder is idle. -/
def Obligations.TxTakeIdleHasNoStep : Prop :=
  ∀ s : State, EncoderInvariant s → (exec .txTake s = .fault .txTakeNotEnabled ↔ s.ebusy = false)

/-- R63, R133, R274: after an accepted command, `argc + 4` TX_TAKE give the frame's bytes in order, and nothing else, and leave
the encoder idle. -/
def Obligations.AcceptedCommandIsTransmitted : Prop :=
  ∀ (s : State) (c : CmdRecord), Idle s → catalogArgc c.opcode = some c.argc →
    ∃ t, observe (.cmd c :: List.replicate (c.argc.toNat + 4) .txTake) s =
        some (t, [] :: (wireFrame c.opcode (c.arg.toList.take c.argc.toNat)).map fun b => [.tx b]) ∧
      Idle t ∧ ReaderSame s t ∧ RegistersSame s t

/-- R134, R64: what CMD and TX_TAKE put out and leave in the encoder depends on the encoder's fields alone. -/
def Obligations.EncoderIgnoresReaderAndRegisters : Prop :=
  ∀ (s t : State) (i : Instr), EncoderSame s t → i = .txTake ∨ (∃ c, i = .cmd c) →
    (∀ u, exec i s = .next u → ∃ v, exec i t = .next v ∧ EncoderSame u v ∧ u.out = v.out) ∧
    (∀ r, exec i s = .fault r → exec i t = .fault r)

-- CRC

/-- R101 and 95_test_vectors.md 2.2, with R7's start value (log 12): the CRC's check values. -/
def Obligations.CrcCheckValues : Prop :=
  crc8 [] = 0x00 ∧ crc8 [0x00] = 0x00 ∧ crc8 [0x01] = 0x5E ∧ crc8 [0x80] = 0x8C ∧
    crc8 [0xC0, 0x02, 0x00, 0x05] = 0x49 ∧ crc8 [0xC2, 0x00] = 0x25 ∧ crc8 [0xF0, 0x00] = 0x99 ∧
    crc8 [0xFF, 0x00] = 0x81 ∧ crc8 [0xC0, 0x00] = 0xB4 ∧
    crc8 [0x31, 0x32, 0x33, 0x34, 0x35, 0x36, 0x37, 0x38, 0x39] = 0xA1

/-- R104 and R101's corner cases, with R7's start value (log 12): the incremental check agrees with `validate`, and a sequence followed by its CRC leaves zero. -/
def Obligations.IncrementalCheckAgrees : Prop :=
  (∀ f : List Byte, 4 ≤ f.length → (validate f = true ↔ validateIncremental f = true)) ∧
  (∀ s : List Byte, crc8 (s ++ [crc8 s]) = 0) ∧ (∀ s : List Byte, crc8 (0 :: s) = crc8 s)

/-- R105: a valid frame with exactly one bit toggled in TYPE to CRC is not valid, for every frame length. -/
def Obligations.SingleBitErrorsAreRejected : Prop :=
  ∀ (f : List Byte) (i : Nat) (j : Nat) (h : i < f.length), 4 ≤ f.length → validate f = true → 1 ≤ i → j < 8 →
    validate (f.set i (f[i] ^^^ (1#8 <<< j))) = false

-- Reader

/-- R161, with log 7 for the SYNC row: with EN = 0 a byte changes nothing and puts out nothing, in any state. -/
def Obligations.StoppedReaderDropsBytes : Prop :=
  ∀ (s : State) (b : Byte), s.en = false →
    (∃ t, exec (.rxByte b) s = .next t ∧ t.out = [] ∧ BlockSame s t) ∧
    (∃ t, exec .sync s = .next t ∧ t.out = [] ∧ BlockSame s t)

/-- R152, R153: in SEEK_SYNC only SYNC starts a candidate frame; every other byte is dropped silently. -/
def Obligations.SeekSyncStartsOnSyncOnly : Prop :=
  ∀ s : State, Ready s →
    (∀ i, i = .rxByte 0x80 ∨ i = .sync →
      ∃ t, exec i s = .next t ∧ t.out = [] ∧ t.rs = .gotType ∧ t.rcnt = 1 ∧ t.rbuf[0] = 0x80 ∧
        (∀ j, 1 ≤ j → byteAt t.rbuf j = byteAt s.rbuf j) ∧ EncoderSame s t ∧ RegistersSame s t) ∧
    (∀ b, b ≠ 0x80 → ∃ t, exec (.rxByte b) s = .next t ∧ t.out = [] ∧ BlockSame s t)

/-- R154, R155: in GOT_TYPE a recognised byte is TYPE; any other, SYNC itself included, raises BAD_TYPE and resynchronises. -/
def Obligations.GotTypeTakesRecognisedType : Prop :=
  ∀ (s : State) (b : Byte), ReaderInvariant s → s.en = true → s.rs = .gotType →
    (RecognisedType b → ∃ t, exec (.rxByte b) s = .next t ∧ t.out = [] ∧ t.rs = .accumulating ∧ t.rcnt = 2 ∧
      t.rbuf[1] = b ∧ (∀ j, j ≠ 1 → byteAt t.rbuf j = byteAt s.rbuf j) ∧ EncoderSame s t ∧ RegistersSame s t) ∧
    (¬ RecognisedType b → ∃ t, exec (.rxByte b) s = .next t ∧ t.out = [.rxevt ⟨0x01, b, 0x00⟩] ∧
      t.rs = .seekSync ∧ t.rcnt = 0 ∧ t.rbuf = s.rbuf ∧ EncoderSame s t ∧ RegistersSame s t)

/-- R156, R157: LEN of at most 10 is taken; a greater one raises BAD_LEN and resynchronises. -/
def Obligations.LenAboveTenIsAbandoned : Prop :=
  ∀ (s : State) (b : Byte), ReaderInvariant s → s.en = true → s.rs = .accumulating → s.rcnt = 2 →
    (b.toNat ≤ 10 → ∃ t, exec (.rxByte b) s = .next t ∧ t.out = [] ∧ t.rs = .accumulating ∧ t.rcnt = 3 ∧
      t.rbuf[2] = b ∧ (∀ j, j ≠ 2 → byteAt t.rbuf j = byteAt s.rbuf j) ∧ EncoderSame s t ∧ RegistersSame s t) ∧
    (10 < b.toNat → ∃ t, exec (.rxByte b) s = .next t ∧ t.out = [.rxevt ⟨0x02, b, s.rbuf[1]⟩] ∧
      t.rs = .seekSync ∧ t.rcnt = 0 ∧ t.rbuf = s.rbuf ∧ EncoderSame s t ∧ RegistersSame s t)

/-- R158, R163: until the frame is complete every byte, SYNC included, is appended as data. -/
def Obligations.ArgumentBytesAreAppended : Prop :=
  ∀ (s : State) (b : Byte), ReaderInvariant s → s.en = true → s.rs = .accumulating → 3 ≤ s.rcnt.toNat →
    s.rcnt.toNat + 1 < s.rbuf[2].toNat + 4 →
    ∃ t, exec (.rxByte b) s = .next t ∧ t.out = [] ∧ t.rs = .accumulating ∧ t.rcnt.toNat = s.rcnt.toNat + 1 ∧
      byteAt t.rbuf s.rcnt.toNat = b ∧ (∀ j, j ≠ s.rcnt.toNat → byteAt t.rbuf j = byteAt s.rbuf j) ∧
      EncoderSame s t ∧ RegistersSame s t

/-- R159, R160: the byte that completes the frame gives its FRAME record if it is the CRC of TYPE, LEN and ARGS, else BAD_CRC;
either way the reader seeks and stores nothing. -/
def Obligations.CrcByteCompletesFrame : Prop :=
  ∀ (s : State) (b : Byte), ReaderInvariant s → s.en = true → s.rs = .accumulating → 3 ≤ s.rcnt.toNat →
    s.rcnt.toNat + 1 = s.rbuf[2].toNat + 4 →
    ∃ t, exec (.rxByte b) s = .next t ∧ t.rs = .seekSync ∧ t.rcnt = 0 ∧ t.rbuf = s.rbuf ∧ EncoderSame s t ∧
      RegistersSame s t ∧
      (b = crc8 ((s.rbuf.toList.take s.rcnt.toNat).drop 1) →
        t.out = [.frame (classify (s.rbuf.toList.take s.rcnt.toNat ++ [b]) s.id)]) ∧
      (b ≠ crc8 ((s.rbuf.toList.take s.rcnt.toNat).drop 1) →
        t.out = [.rxevt ⟨0x03, b, crc8 ((s.rbuf.toList.take s.rcnt.toNat).drop 1)⟩])

/-- I4, with log 10 for the fault: an enabled reader faults on a byte exactly in the states that violate R26; with log 7, on the
SYNC row too. -/
def Obligations.ReaderFaultsOnlyOutsideInvariant : Prop :=
  ∀ (s : State) (b : Byte),
    (exec (.rxByte b) s = .fault .readerInvariant ↔ s.en = true ∧ ¬ ReaderInvariant s) ∧
    (exec .sync s = .fault .readerInvariant ↔ s.en = true ∧ ¬ ReaderInvariant s)

/-- R230, R241: no instruction and no step puts out more than one thing, so that an RXEVT, an ENCEVT and a FRAME record never share
a step; a byte's is a FRAME record or one of the three RXEVTs, a command's one of the two ENCEVTs. With logs 6 and 7 for the rows
that take a byte and log 8 for those that are commands. -/
def Obligations.AtMostOneOutputPerStep : Prop :=
  (∀ (i : Instr) (s t : State), exec i s = .next t → t.out.length ≤ 1) ∧
  (∀ s t : State, step s = .next t → t.out.length ≤ 1) ∧
  (∀ (i : Instr) (s t : State),
    (∃ b, i = .rxByte b) ∨ i = .sync ∨ (∃ row ∈ typeRows, ∃ args crc, i = row.1 args crc) → exec i s = .next t →
    t.out = [] ∨ (∃ r, t.out = [.frame r]) ∨ ∃ a c, t.out = [.rxevt ⟨0x01, a, c⟩] ∨ t.out = [.rxevt ⟨0x02, a, c⟩] ∨
      t.out = [.rxevt ⟨0x03, a, c⟩]) ∧
  (∀ (i : Instr) (s t : State),
    (∃ c, i = .cmd c) ∨ (∃ row ∈ commandRowsOf, ∃ argc arg, i = row.1 argc arg) → exec i s = .next t →
    t.out = [] ∨ ∃ a c, t.out = [.encevt ⟨0x11, a, c⟩] ∨ t.out = [.encevt ⟨0x12, a, c⟩])

/-- R151, R64: what a byte puts out and leaves in the reader depends on the reader's fields, EN and IDENTITY alone. -/
def Obligations.ReaderIgnoresEncoder : Prop :=
  ∀ (s t : State) (b : Byte), ReaderSame s t → RegistersSame s t →
    (∀ u, exec (.rxByte b) s = .next u →
      ∃ v, exec (.rxByte b) t = .next v ∧ ReaderSame u v ∧ RegistersSame u v ∧ u.out = v.out) ∧
    (∀ r, exec (.rxByte b) s = .fault r → exec (.rxByte b) t = .fault r)

-- Classifier

/-- R180, R181, R191 to R196: the record of a valid frame, by its TYPE and LEN alone; `dst` is the identity given. -/
def Obligations.ClassifierFollowsTypeAndLength : Prop :=
  ∀ (id : Identity) (args : List Byte), args.length ≤ 10 →
    (∀ row ∈ ackRows, ∀ st,
      classify (wireFrame row.2 [st]) id =
        { plainRecord .ack row.2 [st] true with
          ackStatus := st
          ackKind := if st = 0x00 then .ok else if st = 0x03 then .remoteBadCrc else .nack }) ∧
    (∀ row ∈ ackRows, args.length ≠ 1 → classify (wireFrame row.2 args) id = plainRecord .ack row.2 args false) ∧
    classify (wireFrame 0xF0 args) id = plainRecord .boot 0xF0 args true ∧
    (args.length ≠ 7 → classify (wireFrame 0xFF args) id = plainRecord .telem 0xFF args false) ∧
    (∀ a0 a1 a2 a3 a4 a5 a6 : Byte,
      classify (wireFrame 0xFF [a0, a1, a2, a3, a4, a5, a6]) id =
        { plainRecord .telem 0xFF [a0, a1, a2, a3, a4, a5, a6] true with
          src := BitVec.ofNat 16 (a0.toNat * 256 + a1.toNat)
          burst := BitVec.ofNat 16 (a2.toNat * 256 + a3.toNat)
          pktid := BitVec.ofNat 16 (a4.toNat * 256 + a5.toNat)
          rssiRaw := a6
          rssiQ1 := rssiQ1 a6
          dst := id }) ∧
    (plainRecord .boot 0xF0 args true).args.toList = args ++ List.replicate (10 - args.length) 0

/-- R182 to R191, with log 6 for the frame's bytes as steps: a valid acknowledgment frame of one argument gives the status and its kind, whatever was sent before. -/
def Obligations.AckFramesReportStatus : Prop :=
  ∀ row ∈ ackRows, ∀ (s : State) (st : Byte), Ready s →
    GivesRecord (row.1 [st] (crc8 [row.2, 1, st])) row.2 [st] s
      { plainRecord .ack row.2 [st] true with
        ackStatus := st
        ackKind := if st = 0x00 then .ok else if st = 0x03 then .remoteBadCrc else .nack }

/-- R192, with log 6: a valid acknowledgment-TYPE frame of another length gives a record with `wf = 0` and no status. -/
def Obligations.MisshapenAckHasNoStatus : Prop :=
  ∀ row ∈ ackRows, ∀ (s : State) (args : List Byte), Ready s → args.length ≤ 10 → args.length ≠ 1 →
    GivesRecord (row.1 args (crc8 (row.2 :: BitVec.ofNat 8 args.length :: args))) row.2 args s
      (plainRecord .ack row.2 args false)

/-- R193, with log 6: a valid boot frame of any length 0 to 10 is well formed and passes its arguments through. -/
def Obligations.BootFramesPassArguments : Prop :=
  ∀ (s : State) (args : List Byte), Ready s → args.length ≤ 10 →
    GivesRecord (.boot args (crc8 (0xF0 :: BitVec.ofNat 8 args.length :: args))) 0xF0 args s
      (plainRecord .boot 0xF0 args true)

/-- R194, R197, with log 6: a valid telemetry frame of seven arguments gives its big-endian fields, the rssi of R196 and IDENTITY as `dst`. -/
def Obligations.TelemetryFieldsAreDecoded : Prop :=
  ∀ (s : State) (a0 a1 a2 a3 a4 a5 a6 : Byte), Ready s →
    GivesRecord (.telemetry [a0, a1, a2, a3, a4, a5, a6] (crc8 [0xFF, 7, a0, a1, a2, a3, a4, a5, a6])) 0xFF
      [a0, a1, a2, a3, a4, a5, a6] s
      { plainRecord .telem 0xFF [a0, a1, a2, a3, a4, a5, a6] true with
        src := BitVec.ofNat 16 (a0.toNat * 256 + a1.toNat)
        burst := BitVec.ofNat 16 (a2.toNat * 256 + a3.toNat)
        pktid := BitVec.ofNat 16 (a4.toNat * 256 + a5.toNat)
        rssiRaw := a6
        rssiQ1 := rssiQ1 a6
        dst := s.id }

/-- R195, with log 6: a valid telemetry-TYPE frame of another length gives a record with `wf = 0` and its fields zero. -/
def Obligations.MisshapenTelemetryHasNoFields : Prop :=
  ∀ (s : State) (args : List Byte), Ready s → args.length ≤ 10 → args.length ≠ 7 →
    GivesRecord (.telemetry args (crc8 (0xFF :: BitVec.ofNat 8 args.length :: args))) 0xFF args s
      (plainRecord .telem 0xFF args false)

/-- R196: `rssi_q1` is twice the source's dBm value, in -268 to -13. -/
def Obligations.RssiIsTwiceTheSourceFormula : Prop :=
  ∀ raw : Byte,
    (128 ≤ raw.toNat → (rssiQ1 raw).toInt = ((raw.toNat : Int) - 256) - 140) ∧
    (raw.toNat < 128 → (rssiQ1 raw).toInt = (raw.toNat : Int) - 140) ∧
    -268 ≤ (rssiQ1 raw).toInt ∧ (rssiQ1 raw).toInt ≤ -13

/-- R160, R234, with log 6 for each frame row: a frame whose last byte is not its CRC gives BAD_CRC with both bytes and no record. -/
def Obligations.BadCrcFramesAreDiscarded : Prop :=
  ∀ row ∈ typeRows, ∀ (s : State) (args : List Byte) (b : Byte), Ready s → args.length ≤ 10 →
    b ≠ crc8 (row.2 :: BitVec.ofNat 8 args.length :: args) →
    ReadsFrame (row.1 args b) row.2 args b s (.rxevt ⟨0x03, b, crc8 (row.2 :: BitVec.ofNat 8 args.length :: args)⟩)

/-- Logs 7 and 8: the SYNC row is RX_BYTE of 80, and a CMD row is CMD of a record with its opcode. -/
def Obligations.NamedRowsAreHostOperations : Prop :=
  ∀ s : State, exec .sync s = exec (.rxByte 0x80) s ∧
    ∀ row ∈ commandRowsOf, ∀ (argc : Nibble) (arg : Args), exec (row.1 argc arg) s = exec (.cmd ⟨row.2.1, argc, arg⟩) s

/-- R51, with log 6 for the frame rows: a frame instruction is RX_BYTE of SYNC with the frame's other bytes begun, and the steps that
run those reach the block state and put out, step by step, what the bytes by RX_BYTE do. -/
def Obligations.FrameIsItsBytes : Prop :=
  ∀ row ∈ typeRows, ∀ (s : State) (args : List Byte) (crc : Byte),
    (∀ t, exec (.rxByte 0x80) s = .next t →
      exec (row.1 args crc) s = .next { t with
        begun := rxRun (row.2 :: BitVec.ofNat 8 args.length :: args ++ [crc]) ++ s.begun }) ∧
    (∀ r, exec (.rxByte 0x80) s = .fault r → exec (row.1 args crc) s = .fault r) ∧
    (∀ t outs, observe (rxRun (0x80 :: row.2 :: BitVec.ofNat 8 args.length :: args ++ [crc])) s = some (t, outs) →
      ∃ u v, exec (row.1 args crc) s = .next u ∧ runSteps (args.length + 3) u = some (v, outs.tail) ∧ outs = u.out :: outs.tail ∧
        BlockSame t v ∧ v.begun = s.begun ∧ v.waiting = s.waiting ∧ v.pending = s.pending)

-- Whole machine

/-- R26, R30, R161 with R39: the state after reset has the invariants. -/
def Obligations.ResetStateHasInvariants : Prop := BlockInvariant State.reset

/-- R26: "kept by every rule of 42_reader.md and 44_control.md and by reset"; with R30 and R161's invariant, by every step. -/
def Obligations.EveryStepKeepsInvariants : Prop :=
  ∀ s t : State, BlockInvariant s → step s = .next t → BlockInvariant t

/-- R24: "`rbuf[13]` keeps its reset value", in every step from a state with the invariants. -/
def Obligations.LastBufferByteIsNeverWritten : Prop :=
  ∀ s t : State, BlockInvariant s → s.rbuf[13] = 0 → step s = .next t → t.rbuf[13] = 0

/-- R249, R213, R197: EN changes only by a CTRL write or RESET, and IDENTITY only by an IDENTITY write or RESET. -/
def Obligations.RegistersChangeOnlyByWriteOrReset : Prop :=
  ∀ (i : Instr) (s t : State), exec i s = .next t →
    (t.en ≠ s.en → (∃ v, i = .regWrite 0 v ∧ t.en = v.getLsbD 0) ∨ i = .reset) ∧
    (t.id ≠ s.id → (∃ v, i = .regWrite 1 v ∧ t.id = v) ∨ i = .reset)

/-- R271: a busy encoder becomes idle only by TX_TAKE of the frame's last byte or by RESET. -/
def Obligations.BusyIsLiftedOnlyByTakeOrReset : Prop :=
  ∀ (i : Instr) (s t : State), exec i s = .next t → s.ebusy = true → t.ebusy = false →
    (i = .txTake ∧ s.tidx.toNat + 1 = s.tlen.toNat) ∨ i = .reset

/-- R230, R160, R132: TX bytes come from TX_TAKE alone, ENCEVT from the commands, FRAME and RXEVT from received bytes, and a
register's value from REG_READ. -/
def Obligations.OutputsComeFromTheirOperations : Prop :=
  ∀ (i : Instr) (s t : State), exec i s = .next t → ∀ o ∈ t.out,
    (∀ b, o = .tx b → i = .txTake) ∧
    (∀ v, o = .regData v → ∃ j, i = .regRead j) ∧
    (∀ e, o = .encevt e → (∃ c, i = .cmd c) ∨ ∃ row ∈ commandRowsOf, ∃ argc arg, i = row.1 argc arg) ∧
    ((∃ r, o = .frame r) ∨ (∃ e, o = .rxevt e) →
      (∃ b, i = .rxByte b) ∨ i = .sync ∨ ∃ row ∈ typeRows, ∃ args crc, i = row.1 args crc)

/-- R238, with logs 4 and 5: from a state with the invariants no instruction is refused, and every one answers a next state but
TX_TAKE on an idle encoder, which is not an operation (R81, I5) and faults by log 5. The spec gives CMD on a busy encoder no step
either (R81, R132, I6): that the model answers a next state, in which the host holds the record, is log 4. -/
def Obligations.OnlyIdleTxTakeStops : Prop :=
  ∀ (s : State) (i : Instr), BlockInvariant s →
    (∃ t, exec i s = .next t) ∨ (i = .txTake ∧ s.ebusy = false ∧ exec i s = .fault .txTakeNotEnabled)

/-- R136: the bytes of an accepted command, fed to a ready reader, give exactly one record, on the last byte, and no event. -/
def Obligations.EncodedCommandReadsBack : Prop :=
  ∀ (s : State) (c : CmdRecord), Ready s → catalogArgc c.opcode = some c.argc →
    ∃ t r, observe (rxRun (wireFrame c.opcode (c.arg.toList.take c.argc.toNat))) s =
        some (t, List.replicate (c.argc.toNat + 3) [] ++ [[.frame r]]) ∧
      r.cls = .ack ∧ r.type = c.opcode ∧ r.len = c.argc ∧
      r.args.toList.take c.argc.toNat = c.arg.toList.take c.argc.toNat ∧
      (r.wf = true ↔ c.opcode = 0xC6 ∨ c.opcode = 0xC7) ∧ Ready t

/-- R166: garbage without SYNC, a valid frame, garbage without SYNC and a valid frame give exactly two records, in order, each on
its frame's last byte. -/
def Obligations.NoiseThenFramesGivesBothRecords : Prop :=
  ∀ (s : State) (g h : List Byte) (t1 t2 : Byte) (a1 a2 : List Byte), Ready s → 0x80 ∉ g → 0x80 ∉ h →
    RecognisedType t1 → RecognisedType t2 → a1.length ≤ 10 → a2.length ≤ 10 →
    ∃ t, observe (rxRun (g ++ wireFrame t1 a1 ++ h ++ wireFrame t2 a2)) s =
        some (t, List.replicate (g.length + a1.length + 3) [] ++ [[.frame (classify (wireFrame t1 a1) s.id)]] ++
          (List.replicate (h.length + a2.length + 3) [] ++ [[.frame (classify (wireFrame t2 a2) s.id)]])) ∧ Ready t

/-- R265, second and third rows: after a stray SYNC, or a stray SYNC and TYPE, a frame's own SYNC is rejected and the rest of the
frame, if it holds no SYNC, is dropped: no record. -/
def Obligations.FalseSyncLosesFrame : Prop :=
  ∀ (s : State) (rest : List Byte) (ty : Byte), Ready s → 0x80 ∉ rest → RecognisedType ty →
    (∃ t, observe (rxRun (0x80 :: 0x80 :: rest)) s =
      some (t, [] :: [.rxevt ⟨0x01, 0x80, 0x00⟩] :: List.replicate rest.length []) ∧ Ready t) ∧
    (∃ t, observe (rxRun (0x80 :: ty :: 0x80 :: rest)) s =
      some (t, [] :: [] :: [.rxevt ⟨0x02, 0x80, ty⟩] :: List.replicate rest.length []) ∧ Ready t)

/-- R269: a telemetry frame whose CRC byte arrives after an IDENTITY write carries the new value, even if its earlier bytes came
before the write. -/
def Obligations.IdentityIsSampledAtCrcByte : Prop :=
  ∀ (s : State) (args : List Byte) (k : Nat) (v : RegWord), Ready s → args.length = 7 → k ≤ 10 →
    ∃ t r, observe (rxRun ((wireFrame 0xFF args).take k) ++ .regWrite 1 v :: rxRun ((wireFrame 0xFF args).drop k)) s =
        some (t, List.replicate 11 [] ++ [[.frame r]]) ∧ r.dst = v ∧ r.wf = true

-- Encoding

/-- R70, R72, R78, with log 2 for the HOSTOP layouts: decoding an encoded well-formed instruction gives it back. -/
def Obligations.DecodeOfEncode : Prop := ∀ i : Instr, i.WellFormed → decode (encode i) = .ok i

/-- The other direction, with log 2: a transaction that decodes is the encoding of what it decodes to, and that is well formed. -/
def Obligations.EncodeOfDecode : Prop :=
  ∀ (t : Transaction) (i : Instr), decode t = .ok i → i.WellFormed ∧ encode i = t

/-- R70, R72, R78: frames, markers and CMD records written out from the encoding tables decode to the instructions they stand for;
with log 2 for how the HOSTOP rows RX_BYTE, CMD and REG_READ are spelled, and log 17 for the named rejections. -/
def Obligations.WrittenOutWordsDecode : Prop :=
  decode ⟨.rxByte, [0x80]⟩ = .ok (.rxByte 0x80) ∧
  decode ⟨.cmd, [0xF0, 0x00, 0, 0, 0, 0, 0, 0, 0, 0, 0, 0]⟩ = .ok (.cmd ⟨0xF0, 0, #v[0, 0, 0, 0, 0, 0, 0, 0, 0, 0]⟩) ∧
  decode ⟨.catalog, [0xC0, 0x02, 0x00, 0x05, 0, 0, 0, 0, 0, 0, 0, 0]⟩ =
    .ok (.setid 2 #v[0x00, 0x05, 0, 0, 0, 0, 0, 0, 0, 0]) ∧
  decode ⟨.marker, [0x80]⟩ = .ok .sync ∧
  decode ⟨.frame, [0x80, 0xC7, 0x01, 0x03, 0x0F]⟩ = .ok (.ackSettxpow [0x03] 0x0F) ∧
  decode ⟨.frame, [0x80, 0xF0, 0x00, 0x99]⟩ = .ok (.boot [] 0x99) ∧
  decode ⟨.frame, [0x80, 0x12, 0x00, 0x99]⟩ = .error .notRecognised ∧
  decode ⟨.frame, [0x80, 0xF0, 0x0B, 0x99]⟩ = .error .lenField ∧
  decode ⟨.regRead, [0x10]⟩ = .error .regIndex

/-- R81, D2, with logs 1, 4, 6 and 15 for where operations come from and log 17 for the refusal (I7, I8): a step runs the next
operation of the cycle or the frame begun; with nothing begun it runs the operation presented, or begins the cycle presented with EBUSY as it then is, and
refuses by name a transaction that spells nothing. -/
def Obligations.StepRunsDecodedOperation : Prop :=
  (∀ (s : State) (i : Instr) (is : List Instr), s.begun = i :: is → step s = exec i { s with begun := is }) ∧
  ∀ s : State, s.begun = [] → (s.waiting = [] ∨ s.ebusy = true) →
    (∀ t ps, s.pending = .op t :: ps →
      (∀ i, decode t = .ok i → step s = exec i { s with pending := ps }) ∧
      (∀ why, decode t = .error why → step s = .refused (.undecodable why))) ∧
    (∀ c ps i is, s.pending = .cycle c :: ps → c.serial s.ebusy = i :: is →
      step s = exec i { s with begun := is, pending := ps })

/-- Logs 4, 11 and 15: with nothing begun a held command is presented as soon as the encoder is idle; with nothing presented a step
changes nothing and puts out nothing; a cycle with nothing to do is passed over, and nothing else changes. -/
def Obligations.StepWithoutOperation : Prop :=
  ∀ s : State, s.begun = [] →
    (∀ c cs, s.waiting = c :: cs → s.ebusy = false → step s = exec (.cmd c) { s with waiting := cs }) ∧
    ((s.waiting = [] ∨ s.ebusy = true) →
      (s.pending = [] → ∃ t, step s = .next t ∧ t.out = [] ∧ BlockSame s t ∧ t.begun = [] ∧ t.waiting = s.waiting ∧
        t.pending = []) ∧
      (∀ c ps, s.pending = .cycle c :: ps → c.serial s.ebusy = [] →
        ∃ t, step s = .next t ∧ t.out = [] ∧ BlockSame s t ∧ t.begun = [] ∧ t.waiting = s.waiting ∧ t.pending = ps))

/-- R20, with logs 1, 4, 6, 13 and 15: no instruction, RESET included, touches what the host has yet to present; what is begun changes
only by a frame row, which begins its bytes after SYNC; and the records held change only by a command on a busy encoder, which adds
that command's record after them. -/
def Obligations.HostSideIsUntouched : Prop :=
  ∀ (i : Instr) (s t : State), exec i s = .next t →
    t.pending = s.pending ∧
      ((t.begun = s.begun ∧ ∀ row ∈ typeRows, ∀ args crc, i ≠ row.1 args crc) ∨
        ∃ row ∈ typeRows, ∃ args crc, i = row.1 args crc ∧
          t.begun = rxRun (row.2 :: BitVec.ofNat 8 args.length :: args ++ [crc]) ++ s.begun) ∧
      (t.waiting = s.waiting ∨
        (s.ebusy = true ∧
          ((∃ c, i = .cmd c ∧ t.waiting = s.waiting ++ [c]) ∨
            ∃ row ∈ commandRowsOf, ∃ argc arg, i = row.1 argc arg ∧ t.waiting = s.waiting ++ [⟨row.2.1, argc, arg⟩])))

/-- R215 and R274, with log 15 for the order of the byte, the command and TX_TAKE, which R215 and R64 leave open, and for a TX_TAKE with no byte to take: a cycle's work is exactly
its byte, its command and its TX_TAKE if the encoder is busy as the cycle begins; a register write comes after the work and a
register read before it, so that the read gives the value from before the cycle; and from the invariants every cycle completes. -/
def Obligations.CycleOrderIsReadWorkWrite : Prop :=
  (∀ (rx : Option Byte) (cmd : Option CmdRecord) (tx busy : Bool),
    let work := (rx.map Instr.rxByte).toList ++ (cmd.map Instr.cmd).toList ++ (if tx && busy then [.txTake] else [])
    (⟨none, rx, cmd, tx⟩ : Machine.Cycle).serial busy = work ∧
    (∀ i v, (⟨some (.write i v), rx, cmd, tx⟩ : Machine.Cycle).serial busy = work ++ [.regWrite i v]) ∧
    (∀ i, (⟨some (.read i), rx, cmd, tx⟩ : Machine.Cycle).serial busy = .regRead i :: work)) ∧
  (∀ (s : State) (c : Machine.Cycle), BlockInvariant s → ∃ t outs, observe (c.serial s.ebusy) s = some (t, outs) ∧
    (∀ i, c.reg = some (.read i) → outs.head? = some [.regData (s.register i)]))
end

