-- ==== Sys2Proof/Laws/State.lean ====
section
/-! SUPPORT. What each update of the state leaves in each field. -/

namespace Sys2Proof.Machine

variable (s : State)

@[simp] theorem State.clearOut_rs : (s.clearOut).rs = s.rs := rfl
@[simp] theorem State.clearOut_rbuf : (s.clearOut).rbuf = s.rbuf := rfl
@[simp] theorem State.clearOut_rcnt : (s.clearOut).rcnt = s.rcnt := rfl
@[simp] theorem State.clearOut_ebusy : (s.clearOut).ebusy = s.ebusy := rfl
@[simp] theorem State.clearOut_tbuf : (s.clearOut).tbuf = s.tbuf := rfl
@[simp] theorem State.clearOut_tlen : (s.clearOut).tlen = s.tlen := rfl
@[simp] theorem State.clearOut_tidx : (s.clearOut).tidx = s.tidx := rfl
@[simp] theorem State.clearOut_en : (s.clearOut).en = s.en := rfl
@[simp] theorem State.clearOut_id : (s.clearOut).id = s.id := rfl
@[simp] theorem State.clearOut_out : (s.clearOut).out = [] := rfl
@[simp] theorem State.clearOut_begun : (s.clearOut).begun = s.begun := rfl
@[simp] theorem State.clearOut_waiting : (s.clearOut).waiting = s.waiting := rfl
@[simp] theorem State.clearOut_pending : (s.clearOut).pending = s.pending := rfl

@[simp] theorem State.emit_rs (o : Output) : (s.emit o).rs = s.rs := rfl
@[simp] theorem State.emit_rbuf (o : Output) : (s.emit o).rbuf = s.rbuf := rfl
@[simp] theorem State.emit_rcnt (o : Output) : (s.emit o).rcnt = s.rcnt := rfl
@[simp] theorem State.emit_ebusy (o : Output) : (s.emit o).ebusy = s.ebusy := rfl
@[simp] theorem State.emit_tbuf (o : Output) : (s.emit o).tbuf = s.tbuf := rfl
@[simp] theorem State.emit_tlen (o : Output) : (s.emit o).tlen = s.tlen := rfl
@[simp] theorem State.emit_tidx (o : Output) : (s.emit o).tidx = s.tidx := rfl
@[simp] theorem State.emit_en (o : Output) : (s.emit o).en = s.en := rfl
@[simp] theorem State.emit_id (o : Output) : (s.emit o).id = s.id := rfl
@[simp] theorem State.emit_out (o : Output) : (s.emit o).out = s.out ++ [o] := rfl
@[simp] theorem State.emit_begun (o : Output) : (s.emit o).begun = s.begun := rfl
@[simp] theorem State.emit_waiting (o : Output) : (s.emit o).waiting = s.waiting := rfl
@[simp] theorem State.emit_pending (o : Output) : (s.emit o).pending = s.pending := rfl

@[simp] theorem State.seek_rs : (s.seek).rs = .seekSync := rfl
@[simp] theorem State.seek_rbuf : (s.seek).rbuf = s.rbuf := rfl
@[simp] theorem State.seek_rcnt : (s.seek).rcnt = 0 := rfl
@[simp] theorem State.seek_ebusy : (s.seek).ebusy = s.ebusy := rfl
@[simp] theorem State.seek_tbuf : (s.seek).tbuf = s.tbuf := rfl
@[simp] theorem State.seek_tlen : (s.seek).tlen = s.tlen := rfl
@[simp] theorem State.seek_tidx : (s.seek).tidx = s.tidx := rfl
@[simp] theorem State.seek_en : (s.seek).en = s.en := rfl
@[simp] theorem State.seek_id : (s.seek).id = s.id := rfl
@[simp] theorem State.seek_out : (s.seek).out = s.out := rfl
@[simp] theorem State.seek_begun : (s.seek).begun = s.begun := rfl
@[simp] theorem State.seek_waiting : (s.seek).waiting = s.waiting := rfl
@[simp] theorem State.seek_pending : (s.seek).pending = s.pending := rfl

@[simp] theorem State.resync_rs (e : Event) : (s.resync e).rs = .seekSync := rfl
@[simp] theorem State.resync_rbuf (e : Event) : (s.resync e).rbuf = s.rbuf := rfl
@[simp] theorem State.resync_rcnt (e : Event) : (s.resync e).rcnt = 0 := rfl
@[simp] theorem State.resync_ebusy (e : Event) : (s.resync e).ebusy = s.ebusy := rfl
@[simp] theorem State.resync_tbuf (e : Event) : (s.resync e).tbuf = s.tbuf := rfl
@[simp] theorem State.resync_tlen (e : Event) : (s.resync e).tlen = s.tlen := rfl
@[simp] theorem State.resync_tidx (e : Event) : (s.resync e).tidx = s.tidx := rfl
@[simp] theorem State.resync_en (e : Event) : (s.resync e).en = s.en := rfl
@[simp] theorem State.resync_id (e : Event) : (s.resync e).id = s.id := rfl
@[simp] theorem State.resync_out (e : Event) : (s.resync e).out = s.out ++ [.rxevt e] := rfl
@[simp] theorem State.resync_begun (e : Event) : (s.resync e).begun = s.begun := rfl
@[simp] theorem State.resync_waiting (e : Event) : (s.resync e).waiting = s.waiting := rfl
@[simp] theorem State.resync_pending (e : Event) : (s.resync e).pending = s.pending := rfl

@[simp] theorem State.collect_rs (k : Nat) (b : Byte) (r : ReaderState) : (s.collect k b r).rs = r := rfl
@[simp] theorem State.collect_rbuf (k : Nat) (b : Byte) (r : ReaderState) : (s.collect k b r).rbuf = s.rbuf.setIfInBounds k b := rfl
@[simp] theorem State.collect_rcnt (k : Nat) (b : Byte) (r : ReaderState) : (s.collect k b r).rcnt = BitVec.ofNat 4 (k + 1) := rfl
@[simp] theorem State.collect_ebusy (k : Nat) (b : Byte) (r : ReaderState) : (s.collect k b r).ebusy = s.ebusy := rfl
@[simp] theorem State.collect_tbuf (k : Nat) (b : Byte) (r : ReaderState) : (s.collect k b r).tbuf = s.tbuf := rfl
@[simp] theorem State.collect_tlen (k : Nat) (b : Byte) (r : ReaderState) : (s.collect k b r).tlen = s.tlen := rfl
@[simp] theorem State.collect_tidx (k : Nat) (b : Byte) (r : ReaderState) : (s.collect k b r).tidx = s.tidx := rfl
@[simp] theorem State.collect_en (k : Nat) (b : Byte) (r : ReaderState) : (s.collect k b r).en = s.en := rfl
@[simp] theorem State.collect_id (k : Nat) (b : Byte) (r : ReaderState) : (s.collect k b r).id = s.id := rfl
@[simp] theorem State.collect_out (k : Nat) (b : Byte) (r : ReaderState) : (s.collect k b r).out = s.out := rfl
@[simp] theorem State.collect_begun (k : Nat) (b : Byte) (r : ReaderState) : (s.collect k b r).begun = s.begun := rfl
@[simp] theorem State.collect_waiting (k : Nat) (b : Byte) (r : ReaderState) : (s.collect k b r).waiting = s.waiting := rfl
@[simp] theorem State.collect_pending (k : Nat) (b : Byte) (r : ReaderState) : (s.collect k b r).pending = s.pending := rfl

@[simp] theorem State.loadFrame_rs (f : List Byte) : (s.loadFrame f).rs = s.rs := rfl
@[simp] theorem State.loadFrame_rbuf (f : List Byte) : (s.loadFrame f).rbuf = s.rbuf := rfl
@[simp] theorem State.loadFrame_rcnt (f : List Byte) : (s.loadFrame f).rcnt = s.rcnt := rfl
@[simp] theorem State.loadFrame_ebusy (f : List Byte) : (s.loadFrame f).ebusy = true := rfl
@[simp] theorem State.loadFrame_tbuf (f : List Byte) : (s.loadFrame f).tbuf = writeFrom s.tbuf 0 f := rfl
@[simp] theorem State.loadFrame_tlen (f : List Byte) : (s.loadFrame f).tlen = BitVec.ofNat 4 f.length := rfl
@[simp] theorem State.loadFrame_tidx (f : List Byte) : (s.loadFrame f).tidx = 0 := rfl
@[simp] theorem State.loadFrame_en (f : List Byte) : (s.loadFrame f).en = s.en := rfl
@[simp] theorem State.loadFrame_id (f : List Byte) : (s.loadFrame f).id = s.id := rfl
@[simp] theorem State.loadFrame_out (f : List Byte) : (s.loadFrame f).out = s.out := rfl
@[simp] theorem State.loadFrame_begun (f : List Byte) : (s.loadFrame f).begun = s.begun := rfl
@[simp] theorem State.loadFrame_waiting (f : List Byte) : (s.loadFrame f).waiting = s.waiting := rfl
@[simp] theorem State.loadFrame_pending (f : List Byte) : (s.loadFrame f).pending = s.pending := rfl

@[simp] theorem State.nextTx_rs : (s.nextTx).rs = s.rs := rfl
@[simp] theorem State.nextTx_rbuf : (s.nextTx).rbuf = s.rbuf := rfl
@[simp] theorem State.nextTx_rcnt : (s.nextTx).rcnt = s.rcnt := rfl
@[simp] theorem State.nextTx_ebusy : (s.nextTx).ebusy = s.ebusy := rfl
@[simp] theorem State.nextTx_tbuf : (s.nextTx).tbuf = s.tbuf := rfl
@[simp] theorem State.nextTx_tlen : (s.nextTx).tlen = s.tlen := rfl
@[simp] theorem State.nextTx_tidx : (s.nextTx).tidx = s.tidx + 1 := rfl
@[simp] theorem State.nextTx_en : (s.nextTx).en = s.en := rfl
@[simp] theorem State.nextTx_id : (s.nextTx).id = s.id := rfl
@[simp] theorem State.nextTx_out : (s.nextTx).out = s.out := rfl
@[simp] theorem State.nextTx_begun : (s.nextTx).begun = s.begun := rfl
@[simp] theorem State.nextTx_waiting : (s.nextTx).waiting = s.waiting := rfl
@[simp] theorem State.nextTx_pending : (s.nextTx).pending = s.pending := rfl

@[simp] theorem State.endTx_rs : (s.endTx).rs = s.rs := rfl
@[simp] theorem State.endTx_rbuf : (s.endTx).rbuf = s.rbuf := rfl
@[simp] theorem State.endTx_rcnt : (s.endTx).rcnt = s.rcnt := rfl
@[simp] theorem State.endTx_ebusy : (s.endTx).ebusy = false := rfl
@[simp] theorem State.endTx_tbuf : (s.endTx).tbuf = s.tbuf := rfl
@[simp] theorem State.endTx_tlen : (s.endTx).tlen = 0 := rfl
@[simp] theorem State.endTx_tidx : (s.endTx).tidx = 0 := rfl
@[simp] theorem State.endTx_en : (s.endTx).en = s.en := rfl
@[simp] theorem State.endTx_id : (s.endTx).id = s.id := rfl
@[simp] theorem State.endTx_out : (s.endTx).out = s.out := rfl
@[simp] theorem State.endTx_begun : (s.endTx).begun = s.begun := rfl
@[simp] theorem State.endTx_waiting : (s.endTx).waiting = s.waiting := rfl
@[simp] theorem State.endTx_pending : (s.endTx).pending = s.pending := rfl

@[simp] theorem State.hold_rs (c : CmdRecord) : (s.hold c).rs = s.rs := rfl
@[simp] theorem State.hold_rbuf (c : CmdRecord) : (s.hold c).rbuf = s.rbuf := rfl
@[simp] theorem State.hold_rcnt (c : CmdRecord) : (s.hold c).rcnt = s.rcnt := rfl
@[simp] theorem State.hold_ebusy (c : CmdRecord) : (s.hold c).ebusy = s.ebusy := rfl
@[simp] theorem State.hold_tbuf (c : CmdRecord) : (s.hold c).tbuf = s.tbuf := rfl
@[simp] theorem State.hold_tlen (c : CmdRecord) : (s.hold c).tlen = s.tlen := rfl
@[simp] theorem State.hold_tidx (c : CmdRecord) : (s.hold c).tidx = s.tidx := rfl
@[simp] theorem State.hold_en (c : CmdRecord) : (s.hold c).en = s.en := rfl
@[simp] theorem State.hold_id (c : CmdRecord) : (s.hold c).id = s.id := rfl
@[simp] theorem State.hold_out (c : CmdRecord) : (s.hold c).out = s.out := rfl
@[simp] theorem State.hold_begun (c : CmdRecord) : (s.hold c).begun = s.begun := rfl
@[simp] theorem State.hold_waiting (c : CmdRecord) : (s.hold c).waiting = s.waiting ++ [c] := rfl
@[simp] theorem State.hold_pending (c : CmdRecord) : (s.hold c).pending = s.pending := rfl

@[simp] theorem State.setBegun_rs (is : List Instr) : (s.setBegun is).rs = s.rs := rfl
@[simp] theorem State.setBegun_rbuf (is : List Instr) : (s.setBegun is).rbuf = s.rbuf := rfl
@[simp] theorem State.setBegun_rcnt (is : List Instr) : (s.setBegun is).rcnt = s.rcnt := rfl
@[simp] theorem State.setBegun_ebusy (is : List Instr) : (s.setBegun is).ebusy = s.ebusy := rfl
@[simp] theorem State.setBegun_tbuf (is : List Instr) : (s.setBegun is).tbuf = s.tbuf := rfl
@[simp] theorem State.setBegun_tlen (is : List Instr) : (s.setBegun is).tlen = s.tlen := rfl
@[simp] theorem State.setBegun_tidx (is : List Instr) : (s.setBegun is).tidx = s.tidx := rfl
@[simp] theorem State.setBegun_en (is : List Instr) : (s.setBegun is).en = s.en := rfl
@[simp] theorem State.setBegun_id (is : List Instr) : (s.setBegun is).id = s.id := rfl
@[simp] theorem State.setBegun_out (is : List Instr) : (s.setBegun is).out = s.out := rfl
@[simp] theorem State.setBegun_begun (is : List Instr) : (s.setBegun is).begun = is := rfl
@[simp] theorem State.setBegun_waiting (is : List Instr) : (s.setBegun is).waiting = s.waiting := rfl
@[simp] theorem State.setBegun_pending (is : List Instr) : (s.setBegun is).pending = s.pending := rfl
@[simp] theorem State.setBegun_setBegun (is js : List Instr) : (s.setBegun is).setBegun js = s.setBegun js := rfl

@[simp] theorem State.beginOps_rs (is : List Instr) : (s.beginOps is).rs = s.rs := rfl
@[simp] theorem State.beginOps_rbuf (is : List Instr) : (s.beginOps is).rbuf = s.rbuf := rfl
@[simp] theorem State.beginOps_rcnt (is : List Instr) : (s.beginOps is).rcnt = s.rcnt := rfl
@[simp] theorem State.beginOps_ebusy (is : List Instr) : (s.beginOps is).ebusy = s.ebusy := rfl
@[simp] theorem State.beginOps_tbuf (is : List Instr) : (s.beginOps is).tbuf = s.tbuf := rfl
@[simp] theorem State.beginOps_tlen (is : List Instr) : (s.beginOps is).tlen = s.tlen := rfl
@[simp] theorem State.beginOps_tidx (is : List Instr) : (s.beginOps is).tidx = s.tidx := rfl
@[simp] theorem State.beginOps_en (is : List Instr) : (s.beginOps is).en = s.en := rfl
@[simp] theorem State.beginOps_id (is : List Instr) : (s.beginOps is).id = s.id := rfl
@[simp] theorem State.beginOps_out (is : List Instr) : (s.beginOps is).out = s.out := rfl
@[simp] theorem State.beginOps_begun (is : List Instr) : (s.beginOps is).begun = is ++ s.begun := rfl
@[simp] theorem State.beginOps_waiting (is : List Instr) : (s.beginOps is).waiting = s.waiting := rfl
@[simp] theorem State.beginOps_pending (is : List Instr) : (s.beginOps is).pending = s.pending := rfl

end Sys2Proof.Machine
end

