-- ==== Sys2Proof/Laws/Bytes.lean ====
section
/-! SUPPORT. Buffers as lists of bytes: what a write leaves at each index. -/

namespace Sys2Proof.Machine

theorem byteAt_eq_getElem {n : Nat} (v : Vector Byte n) (i : Nat) (h : i < n) : byteAt v i = v[i] := by
  simp [byteAt, List.getD_eq_getElem?_getD, h]

theorem setIfInBounds_toList {n : Nat} (v : Vector Byte n) (k : Nat) (b : Byte) :
    (v.setIfInBounds k b).toList = v.toList.set k b := by
  simp [← Vector.toList_toArray]

theorem byteAt_set_same {n : Nat} (v : Vector Byte n) (k : Nat) (b : Byte) (h : k < n) :
    byteAt (v.setIfInBounds k b) k = b := by
  simp [byteAt, List.getD_eq_getElem?_getD, h]

theorem byteAt_set_other {n : Nat} (v : Vector Byte n) (k j : Nat) (b : Byte) (h : j ≠ k) :
    byteAt (v.setIfInBounds k b) j = byteAt v j := by
  simp [byteAt, List.getD_eq_getElem?_getD, List.getElem?_set_ne h.symm]

/-- A write of `bytes` at `k` replaces exactly the bytes from `k` to `k + length - 1`. -/
theorem writeFrom_toList {n : Nat} (v : Vector Byte n) (k : Nat) (bytes : List Byte) (h : k + bytes.length ≤ n) :
    (writeFrom v k bytes).toList = v.toList.take k ++ bytes ++ v.toList.drop (k + bytes.length) := by
  induction bytes generalizing v k with
  | nil => simp [writeFrom]
  | cons b bs ih =>
    simp only [List.length_cons] at h
    have hk : k < v.toList.length := by simp; omega
    rw [writeFrom, ih _ _ (by omega), setIfInBounds_toList, List.drop_set_of_lt (by omega), List.take_set,
      List.take_add_one, List.getElem?_eq_getElem hk]
    have hl : (v.toList.take k).length = k := by simp; omega
    simp only [Option.toList_some, List.set_append, hl, lt_irrefl, if_false, Nat.sub_self, List.set_cons_zero,
      List.append_assoc, List.length_cons]
    rw [show k + 1 + bs.length = k + (bs.length + 1) by omega]
    simp

theorem writeFrom_zero_take {n : Nat} (v : Vector Byte n) (bytes : List Byte) (h : bytes.length ≤ n) :
    (writeFrom v 0 bytes).toList.take bytes.length = bytes := by
  rw [writeFrom_toList v 0 bytes (by omega)]
  simp

theorem writeFrom_zero_other {n : Nat} (v : Vector Byte n) (bytes : List Byte) (h : bytes.length ≤ n) (j : Nat)
    (hj : bytes.length ≤ j) : byteAt (writeFrom v 0 bytes) j = byteAt v j := by
  rw [byteAt, byteAt, writeFrom_toList v 0 bytes (by omega)]
  simp [List.getD_eq_getElem?_getD, List.getElem?_append_right hj]
  congr 2
  omega

theorem getElem_writeFrom_zero {n : Nat} (v : Vector Byte n) (bytes : List Byte) (h : bytes.length ≤ n) (i : Nat)
    (hi : i < bytes.length) : (writeFrom v 0 bytes)[i]'(by omega) = bytes[i] := by
  rw [← Vector.getElem_toList (by simp; omega)]
  simp only [writeFrom_toList v 0 bytes (by omega), List.take_zero, List.nil_append]
  exact List.getElem_append_left hi

end Sys2Proof.Machine
end

