-- ==== Sys2Proof/Laws/Crc.lean ====
section
/-! SUPPORT. The CRC unit: one bit of the update is injective, hence so is `crc8_step` in each operand, and the CRC of a sequence is
zero exactly when its last byte is the CRC of the rest (40_crc.md R100 to R104). -/

namespace Sys2Proof.Machine

/-- The inverse of one bit of the update: the polynomial's top bit marks that bit 0 was 1. -/
def crcUnshift (c : Byte) : Byte := if c.getLsbD 7 then ((c ^^^ Config.crcPolyR) <<< 1) ||| 1 else c <<< 1

set_option maxRecDepth 8000 in
theorem crcUnshift_crcShift : ∀ c : Byte, crcUnshift (crcShift c) = c := by decide

theorem crcShift_injective : Function.Injective crcShift :=
  Function.LeftInverse.injective crcUnshift_crcShift

theorem crcShifts_injective (n : Nat) : Function.Injective (crcShifts n) := by
  induction n with
  | zero => exact fun _ _ h => h
  | succ n ih => exact fun _ _ h => crcShift_injective (ih h)

theorem crcShifts_zero (n : Nat) : crcShifts n 0 = 0 := by
  induction n with
  | zero => rfl
  | succ n ih => exact ih

/-- `crc8_step` depends on `c ^ b` alone, and as a bijection (R100, R104). -/
theorem crc8Step_eq_iff (c b d e : Byte) : crc8Step c b = crc8Step d e ↔ c ^^^ b = d ^^^ e :=
  (crcShifts_injective 8).eq_iff

/-- `crc8_step(c, b) = 0` exactly when `c = b` (R104). -/
theorem crc8Step_eq_zero_iff (c b : Byte) : crc8Step c b = 0 ↔ b = c := by
  rw [← show crc8Step 0 0 = 0 from crcShifts_zero 8, crc8Step_eq_iff, show (0 : Byte) ^^^ 0 = 0 from rfl]
  exact BitVec.xor_eq_zero_iff.trans eq_comm

theorem crc8_eq_foldl (s : List Byte) : crc8 s = s.foldl crc8Step 0 := by
  simp [crc8, Config.crcInit, Config.crcXorOut]

theorem crc8_append_singleton (s : List Byte) (b : Byte) : crc8 (s ++ [b]) = crc8Step (crc8 s) b := by
  simp [crc8_eq_foldl]

/-- The CRC run over a sequence and one more byte leaves zero exactly when that byte is the sequence's CRC (R104). -/
theorem crc8_append_eq_zero_iff (s : List Byte) (b : Byte) : crc8 (s ++ [b]) = 0 ↔ b = crc8 s := by
  rw [crc8_append_singleton, crc8Step_eq_zero_iff]

/-- From different CRC values the same bytes lead to different CRC values. -/
theorem foldl_crc8Step_injective (s : List Byte) : Function.Injective (s.foldl crc8Step) := by
  induction s with
  | nil => exact fun _ _ h => h
  | cons b s ih =>
    intro c d h
    simpa using (crc8Step_eq_iff c b d b).mp (ih h)

/-- What `validate` checks of a frame given as SYNC, body and last byte (R103). -/
theorem validate_iff (m b : Byte) (body : List Byte) : validate (m :: body ++ [b]) = true ↔ b = crc8 body := by
  simp only [validate, beq_iff_eq]
  rw [eq_comm]
  simp [frameBody, List.getD_eq_getElem?_getD]

end Sys2Proof.Machine
end

