-- ==== Sys2Proof/Laws/Encoder.lean ====
section
/-! SUPPORT. The encoder: everything CMD and TX_TAKE can do, what they leave alone, and that they keep R30. -/

namespace Sys2Proof.Machine

/-- An opcode has a count exactly when it has a row of the catalog (R72). -/
theorem catalogArgc_mem {op : Byte} {k : Nibble} (h : catalogArgc op = some k) : (op, k) ∈ catalogTable := by
  simp only [catalogArgc, Option.map_eq_some_iff] at h
  obtain ⟨row, hf, rfl⟩ := h
  have hop : row.1 = op := by simpa using List.find?_some hf
  rw [← hop]
  exact List.mem_of_find?_eq_some hf

/-- The catalog's counts (R72). -/
theorem catalogArgc_count {op : Byte} {k : Nibble} (h : catalogArgc op = some k) :
    k.toNat ∈ [0, 1, 2, 3, 7] := by
  have hm := catalogArgc_mem h
  simp only [catalogTable, List.mem_cons, List.not_mem_nil, Prod.mk.injEq, or_false] at hm
  rcases hm with ⟨_, rfl⟩ | ⟨_, rfl⟩ | ⟨_, rfl⟩ | ⟨_, rfl⟩ | ⟨_, rfl⟩ | ⟨_, rfl⟩ | ⟨_, rfl⟩ | ⟨_, rfl⟩ | ⟨_, rfl⟩ <;> decide

theorem used_length (c : CmdRecord) (h : c.argc.toNat ≤ 10) : (usedArgs c).length = c.argc.toNat := by
  simp [usedArgs, h]

theorem commandFrame_length (op : Byte) (k : Nibble) (a : List Byte) : (commandFrame op k a).length = a.length + 4 := by
  simp [commandFrame]

/-- Everything an idle encoder can do with a record (R130 to R132). -/
theorem takeCommand_cases (c : CmdRecord) (s : State) :
    (catalogArgc c.opcode = none ∧
      takeCommand c s = s.emit (.encevt ⟨evEncBadOpcode, c.opcode, c.argc.setWidth 8⟩)) ∨
    (∃ k, catalogArgc c.opcode = some k ∧ c.argc ≠ k ∧
      takeCommand c s = s.emit (.encevt ⟨evEncBadArgc, c.opcode, c.argc.setWidth 8⟩)) ∨
    (catalogArgc c.opcode = some c.argc ∧
      takeCommand c s = s.loadFrame (commandFrame c.opcode c.argc (usedArgs c))) := by
  rcases hk : catalogArgc c.opcode with _ | k
  · simp [takeCommand, hk]
  · by_cases h : c.argc = k
    · simp [takeCommand, hk, h]
    · simp [takeCommand, hk, h]

/-- Everything CMD can answer (R132, I4, I6). -/
theorem cmdStep_cases (c : CmdRecord) (s : State) :
    (s.encoderOk = false ∧ cmdStep c s = .fault .encoderInvariant) ∨
    (s.encoderOk = true ∧ s.ebusy = true ∧ cmdStep c s = .next (s.hold c)) ∨
    (s.encoderOk = true ∧ s.ebusy = false ∧ cmdStep c s = .next (takeCommand c s)) := by
  rcases ho : s.encoderOk with _ | _ <;> rcases hb : s.ebusy with _ | _ <;> simp [cmdStep, ho, hb]

/-- Everything TX_TAKE can answer (R133, I4, I5). -/
theorem txStep_cases (s : State) :
    (s.encoderOk = false ∧ txStep s = .fault .encoderInvariant) ∨
    (s.encoderOk = true ∧ s.ebusy = false ∧ txStep s = .fault .txTakeNotEnabled) ∨
    (s.encoderOk = true ∧ s.ebusy = true ∧ txStep s = .next (takeByte s)) := by
  rcases ho : s.encoderOk with _ | _ <;> rcases hb : s.ebusy with _ | _ <;> simp [txStep, ho, hb]

/-- A record touches only the encoder's fields and the outputs (R132). -/
theorem takeCommand_frame (c : CmdRecord) (s : State) :
    (takeCommand c s).rs = s.rs ∧ (takeCommand c s).rbuf = s.rbuf ∧ (takeCommand c s).rcnt = s.rcnt ∧
      (takeCommand c s).en = s.en ∧ (takeCommand c s).id = s.id ∧ (takeCommand c s).waiting = s.waiting ∧
      (takeCommand c s).pending = s.pending ∧ (takeCommand c s).begun = s.begun := by
  rcases takeCommand_cases c s with ⟨_, e⟩ | ⟨_, _, _, e⟩ | ⟨_, e⟩ <;> simp [e]

/-- TX_TAKE touches only the encoder's fields and the outputs, and never `tbuf` (R133). -/
theorem takeByte_frame (s : State) :
    (takeByte s).rs = s.rs ∧ (takeByte s).rbuf = s.rbuf ∧ (takeByte s).rcnt = s.rcnt ∧ (takeByte s).en = s.en ∧
      (takeByte s).id = s.id ∧ (takeByte s).waiting = s.waiting ∧ (takeByte s).pending = s.pending ∧
      (takeByte s).tbuf = s.tbuf ∧ (takeByte s).out = s.out ++ [.tx (byteAt s.tbuf s.tidx.toNat)] ∧
      (takeByte s).begun = s.begun := by
  by_cases h : s.tidx.toNat + 1 = s.tlen.toNat <;> simp [takeByte, h]

/-- The frame a matching record loads, its length and its first three bytes (R70, R120). -/
theorem commandFrame_used (c : CmdRecord) (h : c.argc.toNat ≤ 7) :
    (commandFrame c.opcode c.argc (usedArgs c)).length = c.argc.toNat + 4 := by
  rw [commandFrame_length, used_length c (by omega)]

/-- An idle encoder keeps R30 whatever the record (R30, R132). -/
theorem takeCommand_encoderOk (c : CmdRecord) (s : State) (h : s.encoderOk = true) :
    (takeCommand c s).encoderOk = true := by
  rcases takeCommand_cases c s with ⟨_, e⟩ | ⟨_, _, _, e⟩ | ⟨hc, e⟩ <;> rw [e]
  · exact h
  · exact h
  · have hk := catalogArgc_count hc
    have h7 : c.argc.toNat ≤ 7 := by
      simp only [List.mem_cons, List.not_mem_nil, or_false] at hk
      omega
    have hl := commandFrame_used c h7
    have hle : (commandFrame c.opcode c.argc (usedArgs c)).length ≤ Config.tbufBytes := by
      rw [hl, show Config.tbufBytes = 11 from rfl]
      omega
    simp only [State.encoderOk, State.loadFrame_ebusy, State.loadFrame_tbuf, State.loadFrame_tlen, State.loadFrame_tidx,
      getElem_writeFrom_zero _ _ hle 0 (by omega), getElem_writeFrom_zero _ _ hle 1 (by omega),
      getElem_writeFrom_zero _ _ hle 2 (by omega), hl]
    simp only [commandFrame, List.cons_append, List.getElem_cons_zero, List.getElem_cons_succ, hc]
    simp
    omega

/-- TX_TAKE on a busy encoder keeps R30 (R30, R133). -/
theorem takeByte_encoderOk (s : State) (h : s.encoderOk = true) (hb : s.ebusy = true) :
    (takeByte s).encoderOk = true := by
  by_cases hl : s.tidx.toNat + 1 = s.tlen.toNat
  · simp [takeByte, hl, State.encoderOk]
  · rcases hk : catalogArgc s.tbuf[1] with _ | k
    · simp [State.encoderOk, hb, hk] at h
    · simp [State.encoderOk, hb, hk] at h
      obtain ⟨⟨⟨h1, h2⟩, h3⟩, h4⟩ := h
      have e : takeByte s = (s.emit (.tx (byteAt s.tbuf s.tidx.toNat))).nextTx := by simp [takeByte, hl]
      have hm : (s.tidx.toNat + 1) % 16 < k.toNat + 4 := by omega
      simp [e, State.encoderOk, hb, hk, h1, h3, h4, hm]

end Sys2Proof.Machine
end

