-- ==== Sys2Proof/Laws/Reader.lean ====
section
/-! SUPPORT. The reader: everything a byte can do, what it leaves alone, that it keeps R26, and runs of bytes. -/

namespace Sys2Proof.Machine

/-- Everything an enabled reader can do with a byte (R152 to R160): drop it, collect it, resynchronise, or put out a record. -/
theorem readByte_cases (b : Byte) (s : State) :
    (s.rs = .seekSync ∧ b ≠ Config.sync ∧ readByte b s = s) ∨
    (s.rs = .seekSync ∧ b = Config.sync ∧ readByte b s = s.collect 0 b .gotType) ∨
    (s.rs = .gotType ∧ recognised b = true ∧ readByte b s = s.collect 1 b .accumulating) ∨
    (s.rs = .gotType ∧ recognised b = false ∧ readByte b s = s.resync ⟨evBadType, b, 0⟩) ∨
    (s.rs = .accumulating ∧ s.rcnt = 2 ∧ b.toNat ≤ Config.maxLen ∧ readByte b s = s.collect 2 b .accumulating) ∨
    (s.rs = .accumulating ∧ s.rcnt = 2 ∧ Config.maxLen < b.toNat ∧ readByte b s = s.resync ⟨evBadLen, b, s.rbuf[1]⟩) ∨
    (s.rs = .accumulating ∧ s.rcnt ≠ 2 ∧ s.rcnt.toNat + 1 < s.rbuf[2].toNat + 4 ∧
      readByte b s = s.collect s.rcnt.toNat b .accumulating) ∨
    (s.rs = .accumulating ∧ s.rcnt ≠ 2 ∧ s.rbuf[2].toNat + 4 ≤ s.rcnt.toNat + 1 ∧ validate (s.candidate ++ [b]) = true ∧
      readByte b s = (s.emit (.frame (classify (s.candidate ++ [b]) s.id))).seek) ∨
    (s.rs = .accumulating ∧ s.rcnt ≠ 2 ∧ s.rbuf[2].toNat + 4 ≤ s.rcnt.toNat + 1 ∧ validate (s.candidate ++ [b]) = false ∧
      readByte b s = s.resync ⟨evBadCrc, b, crc8 (frameBody (s.candidate ++ [b]))⟩) := by
  rcases hr : s.rs with _ | _ | _
  · by_cases hb : b = Config.sync <;> simp [readByte, hr, hb]
  · rcases hh : recognised b with _ | _ <;> simp [readByte, hr, decodeHeader, hh]
  · by_cases h2 : s.rcnt = 2#4
    · by_cases hl : b.toNat ≤ Config.maxLen
      · simp [readByte, readLen, hr, h2, hl]
      · simp [readByte, readLen, hr, h2, hl, Nat.lt_of_not_le hl]
    · by_cases hn : s.rcnt.toNat + 1 < s.rbuf[2].toNat + 4
      · simp [readByte, hr, h2, hn]
      · rcases hv : validate (s.candidate ++ [b]) with _ | _ <;>
          simp [readByte, finishFrame, hr, h2, hn, hv, Nat.le_of_not_lt hn]

/-- A byte touches only the reader's fields and the outputs (R151, R164). -/
theorem readByte_frame (b : Byte) (s : State) :
    (readByte b s).ebusy = s.ebusy ∧ (readByte b s).tbuf = s.tbuf ∧ (readByte b s).tlen = s.tlen ∧
      (readByte b s).tidx = s.tidx ∧ (readByte b s).en = s.en ∧ (readByte b s).id = s.id ∧
      (readByte b s).waiting = s.waiting ∧ (readByte b s).pending = s.pending ∧ (readByte b s).begun = s.begun := by
  rcases readByte_cases b s with ⟨_, _, e⟩ | ⟨_, _, e⟩ | ⟨_, _, e⟩ | ⟨_, _, e⟩ | ⟨_, _, _, e⟩ | ⟨_, _, _, e⟩ |
    ⟨_, _, _, e⟩ | ⟨_, _, _, _, e⟩ | ⟨_, _, _, _, e⟩ <;> simp [e]

@[simp] theorem readByte_en (b : Byte) (s : State) : (readByte b s).en = s.en := (readByte_frame b s).2.2.2.2.1
@[simp] theorem readByte_id (b : Byte) (s : State) : (readByte b s).id = s.id := (readByte_frame b s).2.2.2.2.2.1

/-- A byte adds at most one output to those of the step (R151). -/
theorem readByte_out (b : Byte) (s : State) :
    (readByte b s).out = s.out ∨ (∃ r, (readByte b s).out = s.out ++ [.frame r]) ∨
      ∃ e, (readByte b s).out = s.out ++ [.rxevt e] := by
  rcases readByte_cases b s with ⟨_, _, e⟩ | ⟨_, _, e⟩ | ⟨_, _, e⟩ | ⟨_, _, e⟩ | ⟨_, _, _, e⟩ | ⟨_, _, _, e⟩ |
    ⟨_, _, _, e⟩ | ⟨_, _, _, _, e⟩ | ⟨_, _, _, _, e⟩ <;> simp [e]

theorem collect_candidate (s : State) (b : Byte) (r : ReaderState) (h : s.rcnt.toNat ≤ 13) :
    (s.collect s.rcnt.toNat b r).candidate = s.candidate ++ [b] := by
  have hm : (s.rcnt.toNat + 1) % 16 = s.rcnt.toNat + 1 := by omega
  have hl : s.rcnt.toNat < s.rbuf.toList.length := by
    rw [Vector.length_toList, show Config.rbufBytes = 14 from rfl]
    omega
  simp only [State.candidate, State.collect_rbuf, State.collect_rcnt, BitVec.toNat_ofNat, setIfInBounds_toList]
  rw [show 2 ^ 4 = 16 from rfl, hm, List.take_add_one, List.take_set, List.getElem?_set_self hl, Option.toList_some,
    List.set_eq_of_length_le (by simp)]

/-- Every byte keeps the reader invariant (R26). -/
theorem readByte_readerOk (b : Byte) (s : State) (h : s.readerOk = true) : (readByte b s).readerOk = true := by
  rcases readByte_cases b s with ⟨_, _, e⟩ | ⟨hr, hb, e⟩ | ⟨hr, hb, e⟩ | ⟨hr, hb, e⟩ | ⟨hr, h2, hb, e⟩ | ⟨hr, h2, hb, e⟩ |
    ⟨hr, h2, hb, e⟩ | ⟨hr, h2, hb, hv, e⟩ | ⟨hr, h2, hb, hv, e⟩ <;> rw [e]
  · exact h
  · simp [State.readerOk, hb]
  · simp [State.readerOk, hr] at h
    simp [State.readerOk, hb, h]
  · simp [State.readerOk]
  · simp [State.readerOk, hr, h2] at h
    simp [State.readerOk, hb, h]
  · simp [State.readerOk]
  · simp [State.readerOk, hr] at h
    obtain ⟨⟨⟨⟨h1, h3⟩, h4⟩, h5⟩, h6⟩ := h
    have hne : s.rcnt.toNat ≠ 2 := fun hc => h2 (BitVec.eq_of_toNat_eq hc)
    have h6' : s.rbuf[2].toNat ≤ Config.maxLen ∧ s.rcnt.toNat < s.rbuf[2].toNat + 4 := by
      rcases h6 with h6 | h6
      · omega
      · exact h6
    have hM : Config.maxLen = 10 := rfl
    have hm : (s.rcnt.toNat + 1) % 16 = s.rcnt.toNat + 1 := by omega
    have hk : ∀ j : Nat, j < 3 → s.rcnt.toNat ≠ j := fun j hj => by omega
    simp [State.readerOk, hm, h4, h5, h6'.1, hk 0, hk 1, hk 2]
    omega
  · simp [State.readerOk]
  · simp [State.readerOk]

/-- With the reader enabled and R26 holding, RX_BYTE is the reader's step (R164). -/
theorem rxStep_enabled (b : Byte) (s : State) (he : s.en = true) (h : s.readerOk = true) :
    rxStep b s = .next (readByte b s) := by
  simp [rxStep, he, h]

theorem rxStep_stopped (b : Byte) (s : State) (he : s.en = false) : rxStep b s = .next s := by
  simp [rxStep, he]

/-- Everything RX_BYTE can answer (R161, R164, I4). -/
theorem rxStep_cases (b : Byte) (s : State) :
    (s.en = false ∧ rxStep b s = .next s) ∨ (s.en = true ∧ s.readerOk = true ∧ rxStep b s = .next (readByte b s)) ∨
      (s.en = true ∧ s.readerOk = false ∧ rxStep b s = .fault .readerInvariant) := by
  rcases he : s.en with _ | _ <;> rcases ho : s.readerOk with _ | _ <;> simp [rxStep, he, ho]

/-- A byte does not see what is begun, and leaves it. -/
theorem readByte_setBegun (b : Byte) (is : List Instr) (s : State) :
    readByte b (s.setBegun is) = (readByte b s).setBegun is := by
  have finish : finishFrame b (s.setBegun is) = (finishFrame b s).setBegun is := by
    simp only [finishFrame, apply_ite (State.setBegun is)]
    rfl
  have len : readLen b (s.setBegun is) = (readLen b s).setBegun is := by
    simp only [readLen, apply_ite (State.setBegun is)]
    rfl
  rcases hr : s.rs with _ | _ | _ <;> simp only [readByte, hr, State.setBegun_rs, finish, len]
  all_goals simp only [apply_ite (State.setBegun is)]
  all_goals rfl

/-- RX_BYTE does not see what is begun, and leaves it. -/
theorem rxStep_setBegun (b : Byte) (s t : State) (is : List Instr) (h : rxStep b s = .next t) :
    rxStep b (s.setBegun is) = .next (t.setBegun is) := by
  rcases rxStep_cases b s with ⟨he, e⟩ | ⟨he, hk, e⟩ | ⟨_, _, e⟩ <;> rw [e] at h <;> cases h
  · exact rxStep_stopped b _ he
  · rw [rxStep_enabled b (s.setBegun is) he hk, readByte_setBegun]

theorem execRxByte_setBegun (b : Byte) (s t : State) (is : List Instr) (h : execRxByte b s = .next t) :
    execRxByte b (s.setBegun is) = .next (t.setBegun is) := rxStep_setBegun b s.clearOut t is h

/-- A chunk's first byte, with the others begun, is the byte's RX_BYTE (R51). -/
theorem rxChunk_cons (b : Byte) (bs : List Byte) (s t : State) (h : rxStep b s = .next t) :
    rxChunk (b :: bs) s = .next (t.setBegun (bs.map .rxByte ++ s.begun)) := rxStep_setBegun b s t _ h

/-- Everything a chunk can answer: what its first byte does, with the others begun (R51). -/
theorem rxChunk_cases (b : Byte) (bs : List Byte) (s : State) :
    (∃ t, rxStep b s = .next t ∧ rxChunk (b :: bs) s = .next (t.setBegun (bs.map .rxByte ++ s.begun))) ∨
      (rxStep b s = .fault .readerInvariant ∧ rxChunk (b :: bs) s = .fault .readerInvariant) := by
  rcases rxStep_cases b s with ⟨_, e⟩ | ⟨_, _, e⟩ | ⟨he, hk, e⟩
  · exact .inl ⟨_, e, rxChunk_cons b bs s _ e⟩
  · exact .inl ⟨_, e, rxChunk_cons b bs s _ e⟩
  · have hk' : (s.beginOps (bs.map .rxByte)).readerOk = false := hk
    exact .inr ⟨e, by simp [rxChunk, rxStep, he, hk']⟩

end Sys2Proof.Machine
end

