-- ==== Sys2Proof/Laws/Invariants.lean ====
section
/-! SUPPORT. The two checks the machine makes are the invariants as 10_state.md R26 and R30 write them. -/

namespace Sys2Proof.Machine

open Sys2Proof.Safety

theorem recognised_iff (b : Byte) : recognised b = true ↔ RecognisedType b := by
  unfold RecognisedType
  revert b
  decide

/-- The check on the reader is R26. -/
theorem readerOk_iff (s : State) : s.readerOk = true ↔ ReaderInvariant s := by
  have hz : s.rcnt = 0#4 ↔ s.rcnt.toNat = 0 := ⟨fun h => by simp [h], fun h => BitVec.eq_of_toNat_eq h⟩
  have ho : s.rcnt = 1#4 ↔ s.rcnt.toNat = 1 := ⟨fun h => by simp [h], fun h => BitVec.eq_of_toNat_eq h⟩
  unfold State.readerOk ReaderInvariant
  simp only [← recognised_iff]
  rcases hr : s.rs with _ | _ | _ <;> simp [hz, ho, Config.sync]
  · exact fun h => ⟨fun h' => by omega, fun h' => by omega⟩
  · exact ⟨fun ⟨a, b⟩ => ⟨by omega, ⟨a, b⟩, fun h => by omega⟩, fun ⟨_, b, _⟩ => b⟩
  · have hM : Config.maxLen = 10 := rfl
    constructor
    · rintro ⟨⟨⟨⟨a, b⟩, c⟩, d⟩, e⟩
      exact ⟨by omega, fun h => by omega, a, b, c, d, fun h => e.resolve_left (by omega)⟩
    · rintro ⟨-, -, c, d, e, f, g⟩
      refine ⟨⟨⟨⟨c, d⟩, e⟩, f⟩, ?_⟩
      rcases Nat.lt_or_ge s.rcnt.toNat 3 with h | h
      · exact Or.inl h
      · exact Or.inr (g h)

/-- The check on the encoder is R30. -/
theorem encoderOk_iff (s : State) : s.encoderOk = true ↔ EncoderInvariant s := by
  unfold State.encoderOk EncoderInvariant
  rcases hb : s.ebusy with _ | _
  · simp
  · rcases hk : catalogArgc s.tbuf[1] with _ | k
    · simp
    · have hc := catalogArgc_count hk
      simp only [List.mem_cons, List.not_mem_nil, or_false] at hc
      simp only [if_true, Bool.and_eq_true, beq_iff_eq, decide_eq_true_eq, Config.sync, Option.some.injEq,
        exists_eq_left', Bool.true_eq_false, false_implies, true_and, forall_true_left]
      constructor
      · rintro ⟨⟨⟨h1, h2⟩, h3⟩, h4⟩
        refine ⟨⟨h1, ?_⟩, ?_, h2, h3⟩
        · rw [h4]
          simp
          omega
        · simp
          omega
      · rintro ⟨⟨h1, h4⟩, h5, h2, h3⟩
        refine ⟨⟨⟨h1, h2⟩, h3⟩, BitVec.eq_of_toNat_eq ?_⟩
        simp [h4]
        omega

end Sys2Proof.Machine
end

