-- ==== Sys2Proof/Laws/Step.lean ====
section
/-! SUPPORT. The next operation: everything `fetch` can take and what it leaves of the state, and the parts of a cycle. -/

namespace Sys2Proof.Machine

open Sys2Proof.Safety

/-- The cases of a cycle's register operation (R215, R274). -/
theorem Cycle.serial_write (i : Nibble) (v : RegWord) (rx : Option Byte) (cmd : Option CmdRecord) (tx busy : Bool) :
    (⟨some (.write i v), rx, cmd, tx⟩ : Cycle).serial busy =
      (⟨none, rx, cmd, tx⟩ : Cycle).serial busy ++ [.regWrite i v] := by
  simp [Cycle.serial, Cycle.reads, Cycle.writes]

theorem Cycle.serial_read (i : Nibble) (rx : Option Byte) (cmd : Option CmdRecord) (tx busy : Bool) :
    (⟨some (.read i), rx, cmd, tx⟩ : Cycle).serial busy = .regRead i :: (⟨none, rx, cmd, tx⟩ : Cycle).serial busy := by
  simp [Cycle.serial, Cycle.reads, Cycle.writes]

/-- Between cycles, with no command that the encoder could take, the next operation is what the host presents. -/
theorem fetch_presented (s : State) (hb : s.begun = []) (hw : s.waiting = [] ∨ s.ebusy = true) :
    s.fetch = s.fetchPresented := by
  rcases hw with h | h
  · simp [State.fetch, State.fetchBetween, hb, h]
  · unfold State.fetch State.fetchBetween
    simp only [hb, h, if_true]
    split <;> rfl

/-- Taking the next operation leaves the block and its outputs alone (R20): only the host's lists change. -/
theorem fetch_block (s : State) : BlockSame s s.fetch.2 ∧ s.fetch.2.out = s.out := by
  have same : ∀ b w p, BlockSame s { s with begun := b, waiting := w, pending := p } := fun _ _ _ =>
    ⟨⟨rfl, rfl, rfl⟩, ⟨rfl, rfl, rfl, rfl⟩, rfl, rfl⟩
  unfold State.fetch State.fetchBetween State.fetchPresented
  repeat' split
  all_goals exact ⟨same _ _ _, rfl⟩

/-- Everything a step can answer: nothing to do, the meaning of one instruction, or a refusal. -/
theorem step_cases (s : State) :
    (s.fetch.1 = none ∧ step s = .next s.fetch.2.clearOut) ∨
    (∃ i, s.fetch.1 = some (.ok i) ∧ step s = exec i s.fetch.2) ∨
    (∃ why, s.fetch.1 = some (.error why) ∧ step s = .refused (.undecodable why)) := by
  unfold step
  rcases s.fetch with ⟨_ | ⟨_ | _⟩, _⟩ <;> simp

/-- What the block's state does not change, its invariants do not see. -/
theorem blockInvariant_congr {s t : State} (h : BlockSame s t) (hi : BlockInvariant s) : BlockInvariant t := by
  obtain ⟨⟨h1, h2, h3⟩, ⟨h4, h5, h6, h7⟩, h8, h9⟩ := h
  unfold BlockInvariant ReaderInvariant EncoderInvariant StoppedInvariant at *
  simp only [h1, h2, h3, h4, h5, h6, h7, h8]
  exact hi

/-- A run followed by another. -/
theorem observe_append (xs ys : List Instr) (s t : State) (o : List (List Output)) (h : observe xs s = some (t, o)) :
    observe (xs ++ ys) s = (observe ys t).map fun r => (r.1, o ++ r.2) := by
  induction xs generalizing s t o with
  | nil =>
    cases h
    simp
  | cons i is ih =>
    simp only [observe, List.cons_append] at h ⊢
    rcases hx : exec i s with u | _ | _ <;> rw [hx] at h <;> try cases h
    obtain ⟨⟨p, q⟩, h1, h2⟩ := Option.map_eq_some_iff.mp h
    cases h2
    simp only [ih u _ _ h1, Option.map_map]
    rfl

/-- With something begun, a step runs the next operation of it. -/
theorem step_begun (s : State) (i : Instr) (is : List Instr) (h : s.begun = i :: is) :
    step s = exec i (s.setBegun is) := by
  unfold step State.fetch
  rw [h]

/-- Bytes begun run one a step, as their RX_BYTE do (R51). -/
theorem runSteps_rxRun (bs : List Byte) (s u : State) (rest : List Instr) (outs : List (List Output))
    (h : observe (rxRun bs) s = some (u, outs)) :
    runSteps bs.length (s.setBegun (rxRun bs ++ rest)) = some (u.setBegun rest, outs) := by
  induction bs generalizing s outs with
  | nil =>
    cases h
    rfl
  | cons b bs ih =>
    simp only [rxRun, List.map_cons, observe] at h
    rcases hx : exec (.rxByte b) s with t | _ | _ <;> rw [hx] at h <;> try cases h
    obtain ⟨⟨p, q⟩, h1, h2⟩ := Option.map_eq_some_iff.mp h
    cases h2
    have e : exec (.rxByte b) (s.setBegun (rxRun bs ++ rest)) = .next (t.setBegun (rxRun bs ++ rest)) :=
      execRxByte_setBegun b s t _ hx
    rw [List.length_cons, runSteps, step_begun _ (.rxByte b) (rxRun bs ++ rest) rfl]
    simp only [State.setBegun_setBegun, e, ih t q h1]
    rfl

end Sys2Proof.Machine
end

