-- ==== Sys2Proof/Laws/Frames.lean ====
section
/-! SUPPORT. Reading a whole frame: from a reader that looks for SYNC, the bytes of a frame fill the candidate and the last one gives
the record or BAD_CRC (42_reader.md R152 to R160, R166); and the same as a run, one byte a step. -/

namespace Sys2Proof.Machine

open Sys2Proof.Safety

/-- The reader's step over a list of bytes. -/
def readBytes (bs : List Byte) (s : State) : State := bs.foldl (fun t b => readByte b t) s

@[simp] theorem readBytes_nil (s : State) : readBytes [] s = s := rfl
@[simp] theorem readBytes_cons (b : Byte) (bs : List Byte) (s : State) :
    readBytes (b :: bs) s = readBytes bs (readByte b s) := rfl

theorem readBytes_append (xs ys : List Byte) (s : State) : readBytes (xs ++ ys) s = readBytes ys (readBytes xs s) := by
  simp [readBytes]

/-- Bytes keep the reader invariant (R26). -/
theorem readBytes_readerOk (bs : List Byte) (s : State) (h : s.readerOk = true) : (readBytes bs s).readerOk = true := by
  induction bs generalizing s with
  | nil => exact h
  | cons b bs ih => exact ih _ (readByte_readerOk b s h)

/-- Argument bytes that leave the frame open are stored one after another (R158). -/
theorem readBytes_args (xs : List Byte) (s : State) (hr : s.rs = .accumulating) (h3 : 3 ≤ s.rcnt.toNat)
    (hl : s.rbuf[2].toNat ≤ 10) (h : s.rcnt.toNat + xs.length < s.rbuf[2].toNat + 4) :
    readBytes xs s =
      { s with rbuf := writeFrom s.rbuf s.rcnt.toNat xs, rcnt := BitVec.ofNat 4 (s.rcnt.toNat + xs.length) } := by
  induction xs generalizing s with
  | nil => simp [writeFrom]
  | cons b bs ih =>
    simp only [List.length_cons] at h
    have h2 : s.rcnt ≠ 2#4 := fun hc => by
      rw [hc] at h3
      exact absurd h3 (by decide)
    have e : readByte b s = s.collect s.rcnt.toNat b .accumulating := by
      simp [readByte, hr, h2, show s.rcnt.toNat + 1 < s.rbuf[2].toNat + 4 by omega]
    have hm : (s.rcnt.toNat + 1) % 16 = s.rcnt.toNat + 1 := by omega
    have hb : (s.rbuf.setIfInBounds s.rcnt.toNat b)[2] = s.rbuf[2] := Vector.getElem_setIfInBounds_ne _ (by omega)
    rw [readBytes_cons, e, ih _ rfl (by simp; omega) (by simp [hb]; omega) (by simp [hb]; omega)]
    simp [State.collect, writeFrom, hr, hm, Nat.add_assoc, Nat.add_comm 1]

theorem frameHead_length (ty : Byte) (args : List Byte) : (frameHead ty args).length = args.length + 3 := by
  simp [frameHead]

/-- SYNC, TYPE, LEN and ARGS of a frame fill the candidate of a reader that looks for SYNC (R152, R154, R156, R158). -/
theorem readBytes_frameHead (ty : Byte) (args : List Byte) (s : State) (hr : s.rs = .seekSync)
    (ht : recognised ty = true) (hl : args.length ≤ 10) :
    readBytes (frameHead ty args) s =
      { s with
        rs := .accumulating
        rbuf := writeFrom s.rbuf 0 (frameHead ty args)
        rcnt := BitVec.ofNat 4 (args.length + 3) } := by
  have hn : (BitVec.ofNat 8 args.length).toNat = args.length := by simp; omega
  have h0 : readByte Config.sync s = s.collect 0 Config.sync .gotType := by simp [readByte, hr]
  have h1 : ∀ t : State, t.rs = .gotType → readByte ty t = t.collect 1 ty .accumulating := fun t h => by
    simp [readByte, h, decodeHeader, ht]
  have h2 : ∀ t : State, t.rs = .accumulating → t.rcnt = 2#4 →
      readByte (BitVec.ofNat 8 args.length) t = t.collect 2 (BitVec.ofNat 8 args.length) .accumulating := fun t h h' => by
    simp [readByte, h, h', readLen, Nat.mod_eq_of_lt (show args.length < 256 by omega), show args.length ≤ Config.maxLen from hl]
  rw [frameHead, readBytes_cons, readBytes_cons, readBytes_cons, h0, h1 _ rfl, h2 _ rfl rfl,
    readBytes_args args _ rfl (by simp) (by simp; omega) (by simp; omega)]
  simp [State.collect, writeFrom, Nat.add_comm]

/-- The candidate of a reader that has read a frame's bytes before its CRC byte. -/
theorem candidate_writeFrom (ty : Byte) (args : List Byte) (s : State) (hl : args.length ≤ 10) :
    ((writeFrom s.rbuf 0 (frameHead ty args)).toList.take (BitVec.ofNat 4 (args.length + 3)).toNat) = frameHead ty args := by
  have hm : (BitVec.ofNat 4 (args.length + 3)).toNat = (frameHead ty args).length := by
    rw [frameHead_length]
    simp
    omega
  rw [hm, writeFrom_zero_take _ _ (by rw [frameHead_length, show Config.rbufBytes = 14 from rfl]; omega)]

/-- The last byte of a frame whose other bytes are the candidate (R159, R160). -/
theorem readByte_last (ty : Byte) (args : List Byte) (b : Byte) (s : State) (hr : s.rs = .accumulating)
    (hc : s.candidate = frameHead ty args) (hk : s.rcnt.toNat = args.length + 3) (hl : s.rbuf[2].toNat = args.length) :
    readByte b s =
      { s with
        rs := .seekSync
        rcnt := 0
        out := s.out ++ [if b = crc8 (ty :: BitVec.ofNat 8 args.length :: args)
          then .frame (classify (frameBytes ty args b) s.id)
          else .rxevt ⟨evBadCrc, b, crc8 (ty :: BitVec.ofNat 8 args.length :: args)⟩] } := by
  have h2 : s.rcnt ≠ 2#4 := fun h => by
    rw [h] at hk
    simp at hk
  have e : readByte b s = finishFrame b s := by
    simp [readByte, hr, h2, show ¬ (s.rcnt.toNat + 1 < s.rbuf[2].toNat + 4) by omega]
  have hv : validate (frameHead ty args ++ [b]) = true ↔ b = crc8 (ty :: BitVec.ofNat 8 args.length :: args) :=
    validate_iff Config.sync b (ty :: BitVec.ofNat 8 args.length :: args)
  rw [e, finishFrame, hc]
  by_cases hb : b = crc8 (ty :: BitVec.ofNat 8 args.length :: args)
  · rw [if_pos (hv.mpr hb), if_pos hb]
    rfl
  · rw [if_neg (fun h => hb (hv.mp h)), if_neg hb]
    simp [State.resync, State.seek, State.emit, frameBody, frameHead]

/-- A whole frame with a recognised TYPE, read from SEEK_SYNC: the record if its last byte is its CRC, else BAD_CRC; the reader
seeks, and `rbuf` holds the frame less that byte (R159, R160). -/
theorem readBytes_frame (ty : Byte) (args : List Byte) (b : Byte) (s : State) (hr : s.rs = .seekSync)
    (ht : recognised ty = true) (hl : args.length ≤ 10) :
    readBytes (frameBytes ty args b) s =
      { s with
        rs := .seekSync
        rcnt := 0
        rbuf := writeFrom s.rbuf 0 (frameHead ty args)
        out := s.out ++ [if b = crc8 (ty :: BitVec.ofNat 8 args.length :: args)
          then .frame (classify (frameBytes ty args b) s.id)
          else .rxevt ⟨evBadCrc, b, crc8 (ty :: BitVec.ofNat 8 args.length :: args)⟩] } := by
  have hle : (frameHead ty args).length ≤ Config.rbufBytes := by
    rw [frameHead_length, show Config.rbufBytes = 14 from rfl]
    omega
  have h2 : (writeFrom s.rbuf 0 (frameHead ty args))[2].toNat = args.length := by
    rw [getElem_writeFrom_zero _ _ hle 2 (by simp [frameHead])]
    simp [frameHead]
    omega
  rw [frameBytes, readBytes_append, readBytes_frameHead ty args s hr ht hl]
  have hk : (BitVec.ofNat 4 (args.length + 3)).toNat = args.length + 3 := by
    simp
    omega
  exact readByte_last ty args b
    { s with rs := .accumulating, rbuf := writeFrom s.rbuf 0 (frameHead ty args), rcnt := BitVec.ofNat 4 (args.length + 3) }
    rfl (candidate_writeFrom ty args s hl) hk h2

/-- Bytes never take an output back. -/
theorem readBytes_out (bs : List Byte) (s : State) : ∃ os, (readBytes bs s).out = s.out ++ os := by
  induction bs generalizing s with
  | nil => exact ⟨[], by simp⟩
  | cons b bs ih =>
    obtain ⟨os, h⟩ := ih (readByte b s)
    rw [readBytes_cons, h]
    rcases readByte_out b s with e | ⟨_, e⟩ | ⟨_, e⟩ <;> rw [e]
    · exact ⟨os, rfl⟩
    · exact ⟨_, List.append_assoc ..⟩
    · exact ⟨_, List.append_assoc ..⟩

theorem observe_rxByte (b : Byte) (is : List Instr) (s : State) (he : s.en = true) (ho : s.readerOk = true) :
    observe (.rxByte b :: is) s =
      (observe is (readByte b s.clearOut)).map fun r => (r.1, (readByte b s.clearOut).out :: r.2) := by
  have e : exec (.rxByte b) s = .next (readByte b s.clearOut) := rxStep_enabled b s.clearOut he ho
  simp only [observe, e]

/-- Bytes that put out nothing together put out nothing one by one. -/
theorem observe_quiet (bs : List Byte) (s : State) (hs : s.out = []) (he : s.en = true) (ho : s.readerOk = true)
    (hq : (readBytes bs s).out = []) :
    observe (rxRun bs) s = some (readBytes bs s, List.replicate bs.length []) := by
  induction bs generalizing s with
  | nil => rfl
  | cons b bs ih =>
    have hc : s.clearOut = s := by
      rw [State.clearOut, ← hs]
    obtain ⟨os, h⟩ := readBytes_out bs (readByte b s)
    have h0 : (readByte b s).out = [] := (List.append_eq_nil_iff.mp (h.symm.trans hq)).1
    rw [rxRun, List.map_cons, observe_rxByte b _ s he ho, hc, h0]
    have := ih (readByte b s) h0 (by simpa using he) (readByte_readerOk b s ho) hq
    rw [rxRun] at this
    rw [this]
    rfl

/-- A whole frame on a ready reader, one byte a step: nothing until the last byte, which gives the record or BAD_CRC (R159, R160). -/
theorem observe_frame (ty : Byte) (args : List Byte) (b : Byte) (s : State) (h : Ready s) (ht : recognised ty = true)
    (hl : args.length ≤ 10) :
    observe (rxRun (frameBytes ty args b)) s =
      some (readBytes (frameBytes ty args b) s.clearOut,
        List.replicate (args.length + 3) [] ++ [(readBytes (frameBytes ty args b) s.clearOut).out]) := by
  obtain ⟨he, hr, hc⟩ := h
  have ho : s.clearOut.readerOk = true := by simp [State.readerOk, hr, hc]
  have hq : (readBytes (frameHead ty args) s.clearOut).out = [] := by
    rw [readBytes_frameHead ty args s.clearOut hr ht hl]
    rfl
  have head := observe_quiet (frameHead ty args) s.clearOut rfl he ho hq
  have run : rxRun (frameBytes ty args b) = rxRun (frameHead ty args) ++ [.rxByte b] := List.map_append
  have clear : observe (rxRun (frameBytes ty args b)) s = observe (rxRun (frameBytes ty args b)) s.clearOut := rfl
  have hen : (readBytes (frameHead ty args) s.clearOut).en = true := by
    rw [readBytes_frameHead ty args s.clearOut hr ht hl]
    exact he
  have hcl : (readBytes (frameHead ty args) s.clearOut).clearOut = readBytes (frameHead ty args) s.clearOut := by
    rw [State.clearOut, ← hq]
  rw [clear, run, observe_append _ _ _ _ _ head,
    observe_rxByte b [] _ hen (readBytes_readerOk (frameHead ty args) s.clearOut ho), hcl]
  simp [observe, frameBytes, readBytes_append, frameHead_length]

end Sys2Proof.Machine
end

