-- ==== Sys2Proof/Laws/PerInstr.lean ====
section
/-! SUPPORT. A fact of every instruction's encoding, one lemma per constructor: it has the format of its opcode-table row, and the byte the
row matches stands where the row says (30_encoding.md R85). -/

namespace Sys2Proof.Laws.RowByte

/-- An instruction's row of the opcode table: its format, and the place and value of the byte it matches (none for HOSTOP). -/
def row : Instr → Format × Option (Nat × Byte)
  | .rxByte _ => (.rxByte, none)
  | .cmd _ => (.cmd, none)
  | .txTake => (.txTake, none)
  | .regRead _ => (.regRead, none)
  | .regWrite _ _ => (.regWrite, none)
  | .reset => (.reset, none)
  | .setid _ _ => (.catalog, some (0, 0xC0))
  | .cmpid _ _ => (.catalog, some (0, 0xC1))
  | .resetrx _ _ => (.catalog, some (0, 0xC2))
  | .setfreq _ _ => (.catalog, some (0, 0xC3))
  | .setchanbw _ _ => (.catalog, some (0, 0xC4))
  | .setdrate _ _ => (.catalog, some (0, 0xC5))
  | .setmod _ _ => (.catalog, some (0, 0xC6))
  | .settxpow _ _ => (.catalog, some (0, 0xC7))
  | .send _ _ => (.catalog, some (0, 0xC8))
  | .sync => (.marker, some (0, 0x80))
  | .ackSetid _ _ => (.frame, some (1, 0xC0))
  | .ackCmpid _ _ => (.frame, some (1, 0xC1))
  | .ackResetrx _ _ => (.frame, some (1, 0xC2))
  | .ackSetfreq _ _ => (.frame, some (1, 0xC3))
  | .ackSetchanbw _ _ => (.frame, some (1, 0xC4))
  | .ackSetdrate _ _ => (.frame, some (1, 0xC5))
  | .ackSetmod _ _ => (.frame, some (1, 0xC6))
  | .ackSettxpow _ _ => (.frame, some (1, 0xC7))
  | .ackSend _ _ => (.frame, some (1, 0xC8))
  | .boot _ _ => (.frame, some (1, 0xF0))
  | .telemetry _ _ => (.frame, some (1, 0xFF))

/-- The encoding of `i` is of its row's format and holds its row's byte at its row's place (R85). -/
def Statement (i : Instr) : Prop :=
  (encode i).fmt = (row i).1 ∧ ∀ place b, (row i).2 = some (place, b) → (encode i).bytes[place]? = some b

theorem of_byte (i : Instr) (fmt : Format) (place : Nat) (b : Byte) (hr : row i = (fmt, some (place, b)))
    (hf : (encode i).fmt = fmt) (hb : (encode i).bytes[place]? = some b) : Statement i := by
  refine ⟨by rw [hr, hf], fun p c h => ?_⟩
  rw [hr] at h
  cases h
  exact hb

theorem of_none (i : Instr) (fmt : Format) (hr : row i = (fmt, none)) (hf : (encode i).fmt = fmt) : Statement i := by
  refine ⟨by rw [hr, hf], fun p c h => ?_⟩
  rw [hr] at h
  cases h

theorem rxByte (b : Byte) : Statement (.rxByte b) := of_none _ _ rfl rfl
theorem cmd (c : CmdRecord) : Statement (.cmd c) := of_none _ _ rfl rfl
theorem txTake : Statement .txTake := of_none _ _ rfl rfl
theorem regRead (i : Nibble) : Statement (.regRead i) := of_none _ _ rfl rfl
theorem regWrite (i : Nibble) (v : RegWord) : Statement (.regWrite i v) := of_none _ _ rfl rfl
theorem reset : Statement .reset := of_none _ _ rfl rfl
theorem setid (argc : Nibble) (arg : Args) : Statement (.setid argc arg) := of_byte _ _ _ _ rfl rfl rfl
theorem cmpid (argc : Nibble) (arg : Args) : Statement (.cmpid argc arg) := of_byte _ _ _ _ rfl rfl rfl
theorem resetrx (argc : Nibble) (arg : Args) : Statement (.resetrx argc arg) := of_byte _ _ _ _ rfl rfl rfl
theorem setfreq (argc : Nibble) (arg : Args) : Statement (.setfreq argc arg) := of_byte _ _ _ _ rfl rfl rfl
theorem setchanbw (argc : Nibble) (arg : Args) : Statement (.setchanbw argc arg) := of_byte _ _ _ _ rfl rfl rfl
theorem setdrate (argc : Nibble) (arg : Args) : Statement (.setdrate argc arg) := of_byte _ _ _ _ rfl rfl rfl
theorem setmod (argc : Nibble) (arg : Args) : Statement (.setmod argc arg) := of_byte _ _ _ _ rfl rfl rfl
theorem settxpow (argc : Nibble) (arg : Args) : Statement (.settxpow argc arg) := of_byte _ _ _ _ rfl rfl rfl
theorem send (argc : Nibble) (arg : Args) : Statement (.send argc arg) := of_byte _ _ _ _ rfl rfl rfl
theorem sync : Statement .sync := of_byte _ _ _ _ rfl rfl rfl
theorem ackSetid (args : List Byte) (crc : Byte) : Statement (.ackSetid args crc) := of_byte _ _ _ _ rfl rfl rfl
theorem ackCmpid (args : List Byte) (crc : Byte) : Statement (.ackCmpid args crc) := of_byte _ _ _ _ rfl rfl rfl
theorem ackResetrx (args : List Byte) (crc : Byte) : Statement (.ackResetrx args crc) := of_byte _ _ _ _ rfl rfl rfl
theorem ackSetfreq (args : List Byte) (crc : Byte) : Statement (.ackSetfreq args crc) := of_byte _ _ _ _ rfl rfl rfl
theorem ackSetchanbw (args : List Byte) (crc : Byte) : Statement (.ackSetchanbw args crc) := of_byte _ _ _ _ rfl rfl rfl
theorem ackSetdrate (args : List Byte) (crc : Byte) : Statement (.ackSetdrate args crc) := of_byte _ _ _ _ rfl rfl rfl
theorem ackSetmod (args : List Byte) (crc : Byte) : Statement (.ackSetmod args crc) := of_byte _ _ _ _ rfl rfl rfl
theorem ackSettxpow (args : List Byte) (crc : Byte) : Statement (.ackSettxpow args crc) := of_byte _ _ _ _ rfl rfl rfl
theorem ackSend (args : List Byte) (crc : Byte) : Statement (.ackSend args crc) := of_byte _ _ _ _ rfl rfl rfl
theorem boot (args : List Byte) (crc : Byte) : Statement (.boot args crc) := of_byte _ _ _ _ rfl rfl rfl
theorem telemetry (args : List Byte) (crc : Byte) : Statement (.telemetry args crc) := of_byte _ _ _ _ rfl rfl rfl

end Sys2Proof.Laws.RowByte
end

