-- ==== Sys2Proof/Laws/Registers.lean ====
section
/-! SUPPORT. The register block: every case of a read, of a write and of a CTRL write (44_control.md R210 to R214). -/

namespace Sys2Proof.Machine

/-- The four cases of a register index (R32). -/
theorem regIndex_cases (i : Nibble) : i = 0 ∨ i = 1 ∨ i = 2 ∨ 3 ≤ i.toNat := by
  rcases Nat.lt_or_ge i.toNat 3 with h | h
  · rcases (by omega : i.toNat = 0 ∨ i.toNat = 1 ∨ i.toNat = 2) with h | h | h
    · exact Or.inl (BitVec.eq_of_toNat_eq h)
    · exact Or.inr (Or.inl (BitVec.eq_of_toNat_eq h))
    · exact Or.inr (Or.inr (Or.inl (BitVec.eq_of_toNat_eq h)))
  · exact Or.inr (Or.inr (Or.inr h))

/-- IDENTITY's register holds every identity whole: IDW = REGW (R8, R32, R34). -/
@[simp] theorem regOfIdentity_eq (id : Identity) : regOfIdentity id = id := BitVec.setWidth_eq id

/-- Every value written to IDENTITY is kept whole (R34). -/
@[simp] theorem identityOfReg_eq (v : RegWord) : identityOfReg v = v := BitVec.setWidth_eq v

@[simp] theorem register_ctrl (s : State) : s.register 0#4 = (BitVec.ofBool s.en).setWidth Config.regw := rfl
@[simp] theorem register_identity (s : State) : s.register 1#4 = s.id := regOfIdentity_eq s.id
@[simp] theorem register_status (s : State) : s.register 2#4 = s.status := rfl

theorem register_reserved (s : State) (i : Nibble) (h : 3 ≤ i.toNat) : s.register i = 0 := by
  unfold State.register
  split <;> simp_all

theorem writeRegister_ctrl (v : RegWord) (s : State) : s.writeRegister 0 v = s.writeCtrl v := rfl
theorem writeRegister_identity (v : RegWord) (s : State) : s.writeRegister 1 v = { s with id := v } := by
  rw [State.writeRegister, identityOfReg_eq]
  rfl

theorem writeRegister_ignored (i : Nibble) (v : RegWord) (s : State) (h : 2 ≤ i.toNat) : s.writeRegister i v = s := by
  unfold State.writeRegister
  split <;> simp_all

/-- EN = 1 starts the reader where it is; EN = 0 stops it in SEEK_SYNC (R214). -/
theorem writeCtrl_cases (v : RegWord) (s : State) :
    (v.getLsbD 0 = true ∧ s.writeCtrl v = { s with en := true }) ∨
      (v.getLsbD 0 = false ∧ s.writeCtrl v = { s.seek with en := false }) := by
  unfold State.writeCtrl
  cases v.getLsbD 0 <;> simp

end Sys2Proof.Machine
end

