-- ==== Sys2Proof/Tests/Slice0.lean ====
section
/-! SUPPORT. Tests: what the admission check refuses, transactions written out from 30_encoding.md, single steps with the values of
95_test_vectors.md, and for each statement with hypotheses a witness that meets them. -/

namespace Sys2Proof.Tests

open Sys2Proof.Machine Sys2Proof.Safety

set_option maxRecDepth 20000

-- Small states

/-- After `reset; wr IDENTITY, 0x0007; wr CTRL, 0x0001` (95, 5.4). -/
def started : State := { State.reset with en := true, id := 0x0007 }

/-- A started reader that holds these bytes of a candidate frame. -/
def holding (rs : ReaderState) (bytes : List Byte) : State :=
  { started with rs := rs, rcnt := BitVec.ofNat 4 bytes.length, rbuf := writeFrom started.rbuf 0 bytes }

/-- An encoder that holds `80 C2 00 25` (95, 3.3) and has handed over `k` bytes of it. -/
def sending (k : Nibble) : State := { State.reset.loadFrame [0x80, 0xC2, 0x00, 0x25] with tidx := k }

/-- Ten argument bytes that begin with these. -/
def argsOf (bytes : List Byte) : Args := writeFrom (Vector.replicate _ 0) 0 bytes

/-- The CMD record of `cmd setid 00 05` (R84). -/
def setidRecord : CmdRecord := ⟨0xC0, 2, argsOf [0x00, 0x05]⟩

/-- The next state of an outcome, if there is one. -/
def nextOf (o : Host.Outcome State Fault Refusal) : Option State :=
  match o with
  | .next t => some t
  | _ => none

/-- The fault of an outcome, if it is one. -/
def faultOf (o : Host.Outcome State Fault Refusal) : Option Fault :=
  match o with
  | .fault f => some f
  | _ => none

/-- What one instruction puts out. -/
def outOf (i : Instr) (s : State) : Option (List Output) := (nextOf (exec i s)).map (·.out)

/-- STATUS after one instruction. -/
def statusAfter (i : Instr) (s : State) : Option RegWord := (nextOf (exec i s)).map (·.register 2)

-- The admission check (R5): eleven argument bytes are refused, ten are not

theorem test_wellFormed_refuses_eleven :
    ∀ row ∈ typeRows, (row.1 (List.replicate 11 0) 0).wellFormed = false ∧ (row.1 (List.replicate 10 0) 0).wellFormed = true := by
  decide

-- Decoding: every constructor from bytes written out from R70, R72, R74, R78 and R81

theorem test_decode_hostops :
    decode ⟨.rxByte, [0xC6]⟩ = .ok (.rxByte 0xC6) ∧
    decode ⟨.cmd, [0xC9, 0x0F, 1, 2, 3, 4, 5, 6, 7, 8, 9, 10]⟩ = .ok (.cmd ⟨0xC9, 15, #v[1, 2, 3, 4, 5, 6, 7, 8, 9, 10]⟩) ∧
    decode ⟨.txTake, []⟩ = .ok .txTake ∧
    decode ⟨.regRead, [0x02]⟩ = .ok (.regRead 2) ∧
    decode ⟨.regWrite, [0x01, 0xBE, 0xEF]⟩ = .ok (.regWrite 1 0xBEEF) ∧
    decode ⟨.reset, []⟩ = .ok .reset := by
  decide

theorem test_decode_commands :
    decode ⟨.catalog, [0xC0, 2, 0x00, 0x05, 0, 0, 0, 0, 0, 0, 0, 0]⟩ = .ok (.setid 2 #v[0, 5, 0, 0, 0, 0, 0, 0, 0, 0]) ∧
    decode ⟨.catalog, [0xC1, 2, 0x12, 0x34, 0, 0, 0, 0, 0, 0, 0, 0]⟩ = .ok (.cmpid 2 #v[0x12, 0x34, 0, 0, 0, 0, 0, 0, 0, 0]) ∧
    decode ⟨.catalog, [0xC2, 0, 0, 0, 0, 0, 0, 0, 0, 0, 0, 0]⟩ = .ok (.resetrx 0 #v[0, 0, 0, 0, 0, 0, 0, 0, 0, 0]) ∧
    decode ⟨.catalog, [0xC3, 3, 0x21, 0x62, 0x76, 0, 0, 0, 0, 0, 0, 0]⟩ =
      .ok (.setfreq 3 #v[0x21, 0x62, 0x76, 0, 0, 0, 0, 0, 0, 0]) ∧
    decode ⟨.catalog, [0xC4, 2, 0x00, 0x03, 0, 0, 0, 0, 0, 0, 0, 0]⟩ = .ok (.setchanbw 2 #v[0, 3, 0, 0, 0, 0, 0, 0, 0, 0]) ∧
    decode ⟨.catalog, [0xC5, 2, 0x02, 0x58, 0, 0, 0, 0, 0, 0, 0, 0]⟩ = .ok (.setdrate 2 #v[2, 0x58, 0, 0, 0, 0, 0, 0, 0, 0]) ∧
    decode ⟨.catalog, [0xC6, 1, 0x01, 0, 0, 0, 0, 0, 0, 0, 0, 0]⟩ = .ok (.setmod 1 #v[1, 0, 0, 0, 0, 0, 0, 0, 0, 0]) ∧
    decode ⟨.catalog, [0xC7, 1, 0x0F, 0, 0, 0, 0, 0, 0, 0, 0, 0]⟩ = .ok (.settxpow 1 #v[15, 0, 0, 0, 0, 0, 0, 0, 0, 0]) ∧
    decode ⟨.catalog, [0xC8, 7, 0x00, 0x05, 0x00, 0x0A, 0x40, 0x00, 0x01, 0, 0, 0]⟩ =
      .ok (.send 7 #v[0, 5, 0, 10, 0x40, 0, 1, 0, 0, 0]) := by
  decide

theorem test_decode_marker : decode ⟨.marker, [0x80]⟩ = .ok .sync ∧ decode ⟨.marker, [0x81]⟩ = .error .notSync := by decide

theorem test_decode_frames :
    decode ⟨.frame, [0x80, 0xC0, 0x01, 0x00, 0x97]⟩ = .ok (.ackSetid [0x00] 0x97) ∧
    decode ⟨.frame, [0x80, 0xC1, 0x01, 0x01, 0x62]⟩ = .ok (.ackCmpid [0x01] 0x62) ∧
    decode ⟨.frame, [0x80, 0xC2, 0x01, 0x00, 0xD8]⟩ = .ok (.ackResetrx [0x00] 0xD8) ∧
    decode ⟨.frame, [0x80, 0xC3, 0x01, 0x03, 0x91]⟩ = .ok (.ackSetfreq [0x03] 0x91) ∧
    decode ⟨.frame, [0x80, 0xC4, 0x01, 0x01, 0x57]⟩ = .ok (.ackSetchanbw [0x01] 0x57) ∧
    decode ⟨.frame, [0x80, 0xC5, 0x01, 0x00, 0xA2]⟩ = .ok (.ackSetdrate [0x00] 0xA2) ∧
    decode ⟨.frame, [0x80, 0xC6, 0x01, 0x01, 0x18]⟩ = .ok (.ackSetmod [0x01] 0x18) ∧
    decode ⟨.frame, [0x80, 0xC7, 0x01, 0x03, 0x0F]⟩ = .ok (.ackSettxpow [0x03] 0x0F) ∧
    decode ⟨.frame, [0x80, 0xC8, 0x01, 0x00, 0xB2]⟩ = .ok (.ackSend [0x00] 0xB2) ∧
    decode ⟨.frame, [0x80, 0xF0, 0x00, 0x99]⟩ = .ok (.boot [] 0x99) ∧
    decode ⟨.frame, [0x80, 0xFF, 0x07, 0x00, 0x07, 0x00, 0x02, 0x01, 0x2C, 0xA4, 0x11]⟩ =
      .ok (.telemetry [0x00, 0x07, 0x00, 0x02, 0x01, 0x2C, 0xA4] 0x11) := by
  decide

theorem test_decode_rejects :
    decode ⟨.regRead, [0x10]⟩ = .error .regIndex ∧ decode ⟨.rxByte, [0x80, 0x80]⟩ = .error .operandCount ∧
    decode ⟨.cmd, [0xC0, 0x10, 0, 0, 0, 0, 0, 0, 0, 0, 0, 0]⟩ = .error .argcField ∧
    decode ⟨.catalog, [0xC9, 1, 0, 0, 0, 0, 0, 0, 0, 0, 0, 0]⟩ = .error .notCatalog ∧
    decode ⟨.frame, [0x80, 0xC9, 0x00, 0x00]⟩ = .error .notRecognised ∧
    decode ⟨.frame, [0x80, 0xF0, 0x0B, 0x00]⟩ = .error .lenField := by
  decide

theorem test_decodeTableWord :
    decodeTableWord 8 0xC2 = some (.resetrx 0 (argsOf [])) ∧ decodeTableWord 8 0x80 = some .sync ∧
    decodeTableWord 8 0xF0 = some (.boot [] 0) ∧ decodeTableWord 8 0xFF = some (.telemetry [] 0) ∧
    decodeTableWord 8 0x12 = none := by
  decide

-- The CRC unit (95, 2.1 and 2.2)

theorem test_crc8Step :
    crc8Step 0 0x01 = 0x5E ∧ crc8Step 0 0x0F = 0x41 ∧ crc8Step 0 0x7F = 0xB9 ∧ crc8Step 0 0x80 = 0x8C ∧
    crc8Step 0 0xFF = 0x35 := by
  decide

theorem test_validate :
    validate [0x80, 0xC0, 0x02, 0x00, 0x05, 0x49] = true ∧ validate [0x80, 0xC0, 0x02, 0x00, 0x05, 0x48] = false := by
  decide

-- The encoder (95, 3)

theorem test_setid_fills_buffer :
    (nextOf (exec (.setid 2 (argsOf [0x00, 0x05])) State.reset)).map (fun t => (t.tbuf.toList, t.tlen, t.tidx, t.ebusy)) =
      some ([0x80, 0xC0, 0x02, 0x00, 0x05, 0x49, 0, 0, 0, 0, 0], 6, 0, true) := by
  decide

/-- SYNC among the arguments is not escaped (95, 3.1). -/
theorem test_setfreq_copies_sync :
    (nextOf (exec (.setfreq 3 (argsOf [0x80, 0x80, 0x80])) State.reset)).map (fun t => (t.tbuf.toList.take 7, t.tlen)) =
      some ([0x80, 0xC3, 0x03, 0x80, 0x80, 0x80, 0x25], 7) := by
  decide

/-- The bytes an idle encoder holds after a command. -/
def loaded (i : Instr) : Option (List Byte) := (nextOf (exec i State.reset)).map (fun t => t.tbuf.toList.take t.tlen.toNat)

/-- The column "frame" of 95, 3.1. -/
theorem test_commands_frames :
    loaded (.cmpid 2 (argsOf [0x12, 0x34])) = some [0x80, 0xC1, 0x02, 0x12, 0x34, 0x5B] ∧
    loaded (.resetrx 0 (argsOf [])) = some [0x80, 0xC2, 0x00, 0x25] ∧
    loaded (.setfreq 3 (argsOf [0x21, 0x62, 0x76])) = some [0x80, 0xC3, 0x03, 0x21, 0x62, 0x76, 0x35] ∧
    loaded (.setchanbw 2 (argsOf [0x00, 0x03])) = some [0x80, 0xC4, 0x02, 0x00, 0x03, 0x9A] ∧
    loaded (.setdrate 2 (argsOf [0x02, 0x58])) = some [0x80, 0xC5, 0x02, 0x02, 0x58, 0x7F] ∧
    loaded (.setmod 1 (argsOf [0x01])) = some [0x80, 0xC6, 0x01, 0x01, 0x18] ∧
    loaded (.settxpow 1 (argsOf [0x0F])) = some [0x80, 0xC7, 0x01, 0x0F, 0xAC] ∧
    loaded (.send 7 (argsOf [0x00, 0x05, 0x00, 0x0A, 0x40, 0x00, 0x01])) =
      some [0x80, 0xC8, 0x07, 0x00, 0x05, 0x00, 0x0A, 0x40, 0x00, 0x01, 0x65] := by
  decide

theorem test_cmd_rejected :
    outOf (.cmd ⟨0xFF, 7, argsOf []⟩) State.reset = some [.encevt ⟨0x11, 0xFF, 0x07⟩] ∧
    outOf (.cmd ⟨0xC9, 3, argsOf [0, 5, 7]⟩) State.reset = some [.encevt ⟨0x11, 0xC9, 0x03⟩] ∧
    outOf (.cmd ⟨0xC0, 3, argsOf [0, 5, 7]⟩) State.reset = some [.encevt ⟨0x12, 0xC0, 0x03⟩] ∧
    outOf (.send 11 (argsOf [])) State.reset = some [.encevt ⟨0x12, 0xC8, 0x0B⟩] := by
  decide

theorem test_txTake_middle :
    outOf .txTake (sending 1) = some [.tx 0xC2] ∧ statusAfter .txTake (sending 1) = some 0x0040 := by
  decide

theorem test_txTake_last :
    outOf .txTake (sending 3) = some [.tx 0x25] ∧ statusAfter .txTake (sending 3) = some 0x0000 := by
  decide

-- The reader (95, 4.1 and 4.2)

theorem test_status_after_each_byte :
    statusAfter .sync started = some 0x0005 ∧ statusAfter (.rxByte 0xC6) (holding .gotType [0x80]) = some 0x000A ∧
    statusAfter (.rxByte 0x01) (holding .accumulating [0x80, 0xC6]) = some 0x000E ∧
    statusAfter (.rxByte 0x01) (holding .accumulating [0x80, 0xC6, 0x01]) = some 0x0012 ∧
    statusAfter (.rxByte 0x18) (holding .accumulating [0x80, 0xC6, 0x01, 0x01]) = some 0x0000 := by
  decide

theorem test_reader_events :
    outOf (.rxByte 0x12) (holding .gotType [0x80]) = some [.rxevt ⟨0x01, 0x12, 0x00⟩] ∧
    outOf .sync (holding .gotType [0x80]) = some [.rxevt ⟨0x01, 0x80, 0x00⟩] ∧
    outOf (.rxByte 0x0B) (holding .accumulating [0x80, 0xF0]) = some [.rxevt ⟨0x02, 0x0B, 0xF0⟩] ∧
    outOf (.rxByte 0x00) (holding .accumulating [0x80, 0xC3, 0x01, 0x00]) = some [.rxevt ⟨0x03, 0x00, 0x73⟩] := by
  decide

-- The received frames: a row's own step takes SYNC and begins the bytes of the frame after it, as 95, 5.1 to 5.4 write them

/-- What one instruction begins. -/
def begunOf (i : Instr) (s : State) : Option (List Instr) := (nextOf (exec i s)).map (·.begun)

theorem test_frames_begin_their_bytes :
    begunOf (.ackSetid [0x03] 0x75) started = some (rxRun [0xC0, 0x01, 0x03, 0x75]) ∧
    begunOf (.ackCmpid [0x01] 0x62) started = some (rxRun [0xC1, 0x01, 0x01, 0x62]) ∧
    begunOf (.ackResetrx [0x00] 0xD8) started = some (rxRun [0xC2, 0x01, 0x00, 0xD8]) ∧
    begunOf (.ackSetfreq [0x03] 0x91) started = some (rxRun [0xC3, 0x01, 0x03, 0x91]) ∧
    begunOf (.ackSetchanbw [0xFF] 0x3C) started = some (rxRun [0xC4, 0x01, 0xFF, 0x3C]) ∧
    begunOf (.ackSetdrate [0x00] 0xA2) started = some (rxRun [0xC5, 0x01, 0x00, 0xA2]) ∧
    begunOf (.ackSetmod [0x01] 0x18) started = some (rxRun [0xC6, 0x01, 0x01, 0x18]) ∧
    begunOf (.ackSettxpow [0x03] 0x0F) started = some (rxRun [0xC7, 0x01, 0x03, 0x0F]) ∧
    begunOf (.ackSend [0xFF] 0x87) started = some (rxRun [0xC8, 0x01, 0xFF, 0x87]) ∧
    begunOf (.boot [] 0x99) started = some (rxRun [0xF0, 0x00, 0x99]) ∧
    begunOf (.telemetry [0x12, 0x34, 0xAB, 0xCD, 0xFF, 0xFF, 0x7F] 0xC7) started =
      some (rxRun [0xFF, 0x07, 0x12, 0x34, 0xAB, 0xCD, 0xFF, 0xFF, 0x7F, 0xC7]) := by
  decide

/-- A frame whose bytes raise several events, on a reader in the middle of another: its own step raises the first alone (R241). -/
theorem test_frame_one_event_per_step :
    outOf (.ackSetid [0x80, 0x80] 0x00) (holding .gotType [0x80]) = some [.rxevt ⟨0x01, 0x80, 0x00⟩] ∧
    statusAfter (.ackSetid [0x03] 0x75) started = some 0x0005 ∧ outOf (.ackSetid [0x03] 0x75) started = some [] := by
  decide

/-- The next byte of a frame begun runs before what the host presents. -/
theorem test_step_runs_begun :
    (nextOf (step ({ started with pending := [.op ⟨.reset, []⟩] }.beginOps (rxRun [0x80, 0xC0])))).map
        (fun t => (t.rs, t.begun, t.pending)) =
      some (.gotType, [.rxByte 0xC0], [.op ⟨.reset, []⟩]) := by
  decide

-- The classifier (95, 5)

/-- What the CRC byte of a frame puts out, on a reader that holds the bytes of the frame before it. -/
def crcOut (type : Byte) (args : List Byte) (crc : Byte) : Option (List Output) :=
  outOf (.rxByte crc) (holding .accumulating (frameHead type args))

theorem test_ack_record :
    crcOut 0xC0 [0x03] 0x75 = some [.frame
      { cls := .ack, type := 0xC0, len := 1, args := argsOf [0x03], crc := 0x75, wf := true, ackStatus := 0x03,
        ackKind := .remoteBadCrc, src := 0, burst := 0, pktid := 0, rssiRaw := 0, rssiQ1 := 0, dst := 0 }] := by
  decide

/-- Status and kind of the one record that a frame's CRC byte puts out. -/
def ackOf (type : Byte) (args : List Byte) (crc : Byte) : Option (Byte × AckKind) :=
  match crcOut type args crc with
  | some [.frame r] => some (r.ackStatus, r.ackKind)
  | _ => none

/-- One entry of each row of 95, 5.1. -/
theorem test_ack_kinds :
    ackOf 0xC1 [0x01] 0x62 = some (0x01, .nack) ∧ ackOf 0xC2 [0x00] 0xD8 = some (0x00, .ok) ∧
    ackOf 0xC3 [0x03] 0x91 = some (0x03, .remoteBadCrc) ∧ ackOf 0xC4 [0xFF] 0x3C = some (0xFF, .nack) ∧
    ackOf 0xC5 [0x00] 0xA2 = some (0x00, .ok) ∧ ackOf 0xC6 [0x01] 0x18 = some (0x01, .nack) ∧
    ackOf 0xC7 [0x03] 0x0F = some (0x03, .remoteBadCrc) ∧ ackOf 0xC8 [0xFF] 0x87 = some (0xFF, .nack) := by
  decide

theorem test_ack_misshapen :
    crcOut 0xC0 [0x00, 0x05] 0x49 = some [.frame
      { cls := .ack, type := 0xC0, len := 2, args := argsOf [0x00, 0x05], crc := 0x49, wf := false, ackStatus := 0,
        ackKind := .none, src := 0, burst := 0, pktid := 0, rssiRaw := 0, rssiQ1 := 0, dst := 0 }] := by
  decide

theorem test_boot_longest :
    crcOut 0xF0 [1, 2, 3, 4, 5, 6, 7, 8, 9, 10] 0x0D = some [.frame
      { cls := .boot, type := 0xF0, len := 10, args := #v[1, 2, 3, 4, 5, 6, 7, 8, 9, 10], crc := 0x0D, wf := true,
        ackStatus := 0, ackKind := .none, src := 0, burst := 0, pktid := 0, rssiRaw := 0, rssiQ1 := 0, dst := 0 }] := by
  decide

/-- The second row of 95, 5.4; -13 is FFF3 (95, 5.5). -/
theorem test_telemetry_record :
    crcOut 0xFF [0x12, 0x34, 0xAB, 0xCD, 0xFF, 0xFF, 0x7F] 0xC7 = some [.frame
      { cls := .telem, type := 0xFF, len := 7, args := argsOf [0x12, 0x34, 0xAB, 0xCD, 0xFF, 0xFF, 0x7F], crc := 0xC7,
        wf := true, ackStatus := 0, ackKind := .none, src := 0x1234, burst := 0xABCD, pktid := 0xFFFF, rssiRaw := 0x7F,
        rssiQ1 := 0xFFF3, dst := 0x0007 }] := by
  decide

theorem test_frame_badCrc : crcOut 0xC0 [0x00] 0x98 = some [.rxevt ⟨0x03, 0x98, 0x97⟩] := by decide

theorem test_rssiQ1 :
    rssiQ1 0x00 = 0xFF74 ∧ rssiQ1 0x14 = 0xFF88 ∧ rssiQ1 0x80 = 0xFEF4 ∧ rssiQ1 0x8C = 0xFF00 ∧ rssiQ1 0xFF = 0xFF73 := by
  decide

/-- The codes of R23, R79 and R191. -/
theorem test_codes :
    ReaderState.code .gotType = 1 ∧ FrameClass.code .telem = 2 ∧ AckKind.code .remoteBadCrc = 1 ∧ AckKind.code .none = 3 := by
  decide

-- The parameters (00_scope.md section 3)

theorem test_parameters :
    Config.sync = 0x80 ∧ Config.maxLen = 10 ∧ Config.crcPolyR = 0x8C ∧ Config.crcInit = 0x00 ∧ Config.crcXorOut = 0x00 ∧
    Config.idw = 16 ∧ Config.rbufBytes = 14 ∧ Config.tbufBytes = 11 ∧ Config.regw = 16 := by
  decide

-- Registers and reset (95, 6 and 7)

theorem test_regWrite_ctrl :
    (nextOf (exec (.regWrite 0 0xFFFF) State.reset)).map (·.register 0) = some 0x0001 ∧
    (nextOf (exec (.regWrite 0 0x0002) started)).map (·.register 0) = some 0x0000 := by
  decide

theorem test_regWrite_stop :
    statusAfter (.regWrite 0 0) (holding .accumulating [0x80, 0xFF]) = some 0x0000 ∧
    outOf (.regWrite 0 0) (holding .accumulating [0x80, 0xFF]) = some [] := by
  decide

theorem test_regRead_status :
    outOf (.regRead 2) { sending 0 with en := true, rs := .gotType, rcnt := 1 } = some [.regData 0x0045] := by
  decide

theorem test_reset_drops_everything : nextOf (exec .reset (holding .accumulating [0x80, 0xC0, 0x01])) = some State.reset := by
  decide

/-- Steps from reset: nothing is presented, then BOOT is, whose SYNC is dropped since EN = 0. -/
theorem test_step :
    nextOf (step State.reset) = some State.reset ∧
    nextOf (step (State.reset.withFetchWord 8 0xF0)) = some (State.reset.beginOps (rxRun [0xF0, 0x00, 0x00])) ∧
    (nextOf (step (State.reset.withFetchWord 8 0xC2))).map (·.ebusy) = some true := by
  decide

/-- A cycle with a write, a byte and a taken byte (R215). -/
theorem test_cycle :
    (⟨some (.write 1 5), some 0x80, none, true⟩ : Machine.Cycle).serial true = [.rxByte 0x80, .txTake, .regWrite 1 5] := by
  decide

/-- Two cycles presented to an idle encoder: a command, and then TX_TAKE with a register write. -/
def twoCycles : State :=
  (State.reset.presentCycle ⟨none, none, some setidRecord, true⟩).presentCycle ⟨some (.write 1 5), none, none, true⟩

/-- The command's first byte is there from the next cycle on (R274): the first cycle takes none, and the second takes it. -/
theorem test_cycle_first_byte :
    (nextOf (step twoCycles)).map (fun t => (t.out, t.ebusy, t.begun, t.pending.length)) = some ([], true, [], 1) ∧
    (((nextOf (step twoCycles)).map step).bind nextOf).map (fun t => (t.out, t.tidx, t.begun, t.pending)) =
      some ([.tx 0x80], 1, [.regWrite 1 5], []) := by
  decide

/-- A complete run leaves the encoder idle (R273). -/
theorem test_complete : Complete State.reset ∧ ¬ Complete (sending 3) := by
  unfold Complete
  decide

-- Witnesses: for each statement with hypotheses, states and operands that meet them, at the edges of each clause

theorem witness_reserved_index : 3 ≤ (3 : Nibble).toNat ∧ 3 ≤ (15 : Nibble).toNat := by decide

/-- CmdLoadsCatalogFrame, AcceptedCommandIsTransmitted, the nine LoadsFrame statements: the shortest and the longest frame. -/
theorem witness_accepted :
    Idle State.reset ∧ catalogArgc setidRecord.opcode = some setidRecord.argc ∧
    catalogArgc (CmdRecord.mk 0xC2 0 (argsOf [])).opcode = some 0 ∧
    catalogArgc (CmdRecord.mk 0xC8 7 (argsOf [])).opcode = some 7 := by
  unfold Idle
  decide

/-- CmdRejectsUnknownOpcode: one below and one above the catalog. -/
theorem witness_unknown_opcode : Idle State.reset ∧ (0xBF : Byte).toNat < 0xC0 ∧ 0xC8 < (0xC9 : Byte).toNat := by
  unfold Idle
  decide

/-- CmdRejectsWrongCount, RejectsCounts: one argument too few and one too many. -/
theorem witness_wrong_count :
    Idle State.reset ∧ catalogArgc 0xC0 = some 2 ∧ (1 : Nibble) ≠ 2 ∧ (3 : Nibble).toNat ≠ 2 := by
  unfold Idle
  decide

theorem witness_busy : ∀ k : Nibble, k.toNat < 4 → EncoderInvariant (sending k) ∧ (sending k).ebusy = true := by
  unfold EncoderInvariant
  decide

/-- TxTakeGivesNextByte: its first byte, a byte before the last, the last byte. -/
theorem witness_txTake :
    (sending 0).tidx.toNat + 1 ≠ (sending 0).tlen.toNat ∧ (sending 2).tidx.toNat + 1 ≠ (sending 2).tlen.toNat ∧
    (sending 3).tidx.toNat + 1 = (sending 3).tlen.toNat := by
  decide

/-- TxTakeIdleHasNoStep: both sides of the equivalence. -/
theorem witness_txTake_idle :
    EncoderInvariant State.reset ∧ State.reset.ebusy = false ∧ faultOf (exec .txTake State.reset) = some .txTakeNotEnabled ∧
    faultOf (exec .txTake (sending 0)) = none := by
  unfold EncoderInvariant
  decide

/-- EncoderIgnoresReaderAndRegisters: a next state for each instruction, and a fault. -/
theorem witness_encoder_alone :
    EncoderSame (sending 1) { sending 1 with en := true, id := 5 } ∧ EncoderSame State.reset started ∧
    outOf .txTake (sending 1) ≠ none ∧ outOf (.cmd setidRecord) State.reset ≠ none ∧
    faultOf (exec .txTake State.reset) = some .txTakeNotEnabled := by
  unfold EncoderSame
  decide

/-- IncrementalCheckAgrees, SingleBitErrorsAreRejected: the shortest frame, its TYPE's first bit and its CRC's last. -/
theorem witness_single_bit :
    validate [0x80, 0xC2, 0x00, 0x25] = true ∧ 4 ≤ [0x80, 0xC2, 0x00, 0x25].length ∧
    validate ([0x80, 0xC2, 0x00, 0x25].set 1 (0xC2 ^^^ (1#8 <<< 0))) = false ∧
    validate ([0x80, 0xC2, 0x00, 0x25].set 3 (0x25 ^^^ (1#8 <<< 7))) = false := by
  decide

theorem witness_stopped : State.reset.en = false ∧ (holding .accumulating [0x80, 0xF0]).en = true := by decide

/-- SeekSyncStartsOnSyncOnly and every statement from a ready reader. -/
theorem witness_ready : Ready started ∧ (0x7F : Byte) ≠ 0x80 := by
  unfold Ready
  decide

/-- GotTypeTakesRecognisedType: the edges of the TYPE set, and SYNC as TYPE. -/
theorem witness_gotType :
    ReaderInvariant (holding .gotType [0x80]) ∧ (holding .gotType [0x80]).en = true ∧
    (∀ b ∈ ([0xC0, 0xC8, 0xF0, 0xFF] : List Byte), RecognisedType b) ∧
    (∀ b ∈ ([0xBF, 0xC9, 0xEF, 0xF1, 0xFE, 0x80] : List Byte), ¬ RecognisedType b) := by
  unfold ReaderInvariant RecognisedType
  decide

/-- LenAboveTenIsAbandoned: LEN 10 and LEN 11. -/
theorem witness_len :
    ReaderInvariant (holding .accumulating [0x80, 0xFF]) ∧ (holding .accumulating [0x80, 0xFF]).rcnt = 2 ∧
    (10 : Byte).toNat ≤ 10 ∧ 10 < (11 : Byte).toNat := by
  unfold ReaderInvariant RecognisedType
  decide

/-- ArgumentBytesAreAppended: the first and the last argument byte of the longest frame. -/
theorem witness_argument :
    ∀ bytes ∈ ([[0x80, 0xF0, 0x0A], [0x80, 0xF0, 0x0A, 1, 2, 3, 4, 5, 6, 7, 8, 9]] : List (List Byte)),
      let s := holding .accumulating bytes
      ReaderInvariant s ∧ s.en = true ∧ 3 ≤ s.rcnt.toNat ∧ s.rcnt.toNat + 1 < s.rbuf[2].toNat + 4 := by
  unfold ReaderInvariant RecognisedType
  decide

/-- CrcByteCompletesFrame: the shortest and the longest frame, each with its CRC byte and with another. -/
theorem witness_last_byte :
    ∀ row ∈ ([([0x80, 0xF0, 0x00], 0x99), ([0x80, 0xF0, 0x0A, 1, 2, 3, 4, 5, 6, 7, 8, 9, 10], 0x0D)] : List (List Byte × Byte)),
      let s := holding .accumulating row.1
      ReaderInvariant s ∧ s.en = true ∧ 3 ≤ s.rcnt.toNat ∧ s.rcnt.toNat + 1 = s.rbuf[2].toNat + 4 ∧
        row.2 = crc8 ((s.rbuf.toList.take s.rcnt.toNat).drop 1) ∧
        row.2 + 1 ≠ crc8 ((s.rbuf.toList.take s.rcnt.toNat).drop 1) := by
  unfold ReaderInvariant RecognisedType
  decide

/-- ReaderFaultsOnlyOutsideInvariant, ReaderIgnoresEncoder: a state outside R26. -/
theorem witness_reader_fault :
    (holding .gotType []).en = true ∧ ¬ ReaderInvariant (holding .gotType []) ∧
    faultOf (exec (.rxByte 0x80) (holding .gotType [])) = some .readerInvariant := by
  unfold ReaderInvariant RecognisedType
  decide

theorem witness_reader_alone :
    ReaderSame started { started with ebusy := true, tlen := 4 } ∧ RegistersSame started { started with ebusy := true, tlen := 4 } ∧
    outOf (.rxByte 0x80) started = some [] := by
  unfold ReaderSame RegistersSame
  decide

/-- MisshapenAckHasNoStatus, MisshapenTelemetryHasNoFields, BootFramesPassArguments: LEN 0 and LEN 10. -/
theorem witness_lengths :
    ∀ args ∈ ([[], List.replicate 10 0xFF] : List (List Byte)), args.length ≤ 10 ∧ args.length ≠ 1 ∧ args.length ≠ 7 := by
  decide

/-- BadCrcFramesAreDiscarded: LEN 0 and LEN 10. -/
theorem witness_badCrc :
    (0x98 : Byte) ≠ crc8 [0xF0, 0] ∧ (0x0E : Byte) ≠ crc8 (0xF0 :: 10 :: [1, 2, 3, 4, 5, 6, 7, 8, 9, 10]) := by
  decide

/-- AtMostOneOutputPerStep: one output of a step, of each kind of event, and of a frame row. -/
theorem witness_one_output :
    ((nextOf (step ((holding .gotType [0x80]).beginOps [.rxByte 0x80]))).map (·.out)) = some [.rxevt ⟨0x01, 0x80, 0x00⟩] ∧
    outOf (.telemetry [] 0x81) (holding .accumulating [0x80, 0xC0]) = some [.rxevt ⟨0x02, 0x80, 0xC0⟩] ∧
    outOf (.setid 3 (argsOf [])) State.reset = some [.encevt ⟨0x12, 0xC0, 0x03⟩] := by
  decide

/-- FrameIsItsBytes: from a reader in the middle of a frame, and from a stopped one. -/
theorem witness_frame_runs :
    (observe (rxRun [0x80, 0xC0, 0x00, 0xB4]) (holding .gotType [0x80])).map (·.2) = some [[.rxevt ⟨0x01, 0x80, 0⟩], [], [], []] ∧
    (observe (rxRun [0x80, 0xC0, 0x00, 0xB4]) State.reset).map (·.2) = some [[], [], [], []] := by
  decide

/-- EveryStepKeepsInvariants, OnlyIdleTxTakeStops: a step from a state with the invariants. -/
theorem witness_invariants : BlockInvariant started ∧ BlockInvariant (holding .accumulating [0x80, 0xF0, 0x0A, 1]) :=
  ⟨⟨(readerOk_iff _).mp (by decide), (encoderOk_iff _).mp (by decide), by unfold StoppedInvariant; decide⟩,
    (readerOk_iff _).mp (by decide), (encoderOk_iff _).mp (by decide), by unfold StoppedInvariant; decide⟩

/-- The same two statements: a step and an instruction that complete there. -/
theorem witness_next :
    (nextOf (step started)).isSome = true ∧ outOf (.rxByte 2) (holding .accumulating [0x80, 0xF0, 0x0A, 1]) = some [] := by
  decide

/-- LastBufferByteIsNeverWritten, RegistersChangeOnlyByWriteOrReset, BusyIsLiftedOnlyByTakeOrReset: a step, a change of each
register and a busy encoder that becomes idle. -/
theorem witness_changes :
    (holding .accumulating [0x80, 0xF0, 0x0A, 1]).rbuf[13] = 0 ∧
    (nextOf (exec (.regWrite 0 1) State.reset)).map (·.en) = some true ∧
    (nextOf (exec (.regWrite 1 0xBEEF) State.reset)).map (·.id) = some 0xBEEF ∧
    (nextOf (exec .txTake (sending 3))).map (·.ebusy) = some false ∧
    (nextOf (exec .reset (sending 0))).map (·.ebusy) = some false := by
  decide

/-- OutputsComeFromTheirOperations: an output of each kind. -/
theorem witness_outputs :
    outOf .txTake (sending 0) = some [.tx 0x80] ∧ outOf (.regRead 1) started = some [.regData 0x0007] ∧
    outOf (.setmod 0 (argsOf [])) State.reset = some [.encevt ⟨0x12, 0xC6, 0x00⟩] ∧
    outOf .sync (holding .gotType [0x80]) = some [.rxevt ⟨0x01, 0x80, 0x00⟩] ∧ (ackOf 0xC0 [0x00] 0x97).isSome = true ∧
    outOf (.boot [] 0x99) (holding .gotType [0x80]) = some [.rxevt ⟨0x01, 0x80, 0x00⟩] := by
  decide

/-- NoiseThenFramesGivesBothRecords, FalseSyncLosesFrame: noise and the rest of a frame, none of it SYNC. -/
theorem witness_noise :
    (0x80 : Byte) ∉ ([0x11, 0x22, 0xC0] : List Byte) ∧ (0x80 : Byte) ∉ ([0xC0, 0x01, 0x00, 0x97] : List Byte) ∧
    RecognisedType 0xF0 ∧ RecognisedType 0xFF := by
  unfold RecognisedType
  decide

/-- IdentityIsSampledAtCrcByte: the write before the frame and just before its CRC byte. -/
theorem witness_identity : [0x12, 0x34, 0xAB, 0xCD, 0xFF, 0xFF, 0x7F].length = 7 ∧ 0 ≤ 10 ∧ 10 ≤ 10 := by decide

theorem witness_wellFormed : (Instr.telemetry (List.replicate 10 0) 0).WellFormed ∧ (Instr.boot [] 0).WellFormed := by decide

/-- EncodeOfDecode: a register write. -/
theorem witness_decode : decode ⟨.regWrite, [0x0F, 0xBE, 0xEF]⟩ = .ok (.regWrite 15 0xBEEF) := by decide

/-- StepRunsDecodedOperation: an operation presented to an idle encoder, and one that spells nothing. -/
theorem witness_step :
    (State.reset.withFetchWord 8 0x80).begun = [] ∧ (State.reset.withFetchWord 8 0x80).waiting = [] ∧
    (State.reset.withFetchWord 8 0x80).pending = [.op ⟨.marker, [0x80]⟩] ∧
    decode ⟨.marker, [0x80]⟩ = .ok .sync ∧ decode ⟨.marker, [0x81]⟩ = .error .notSync := by
  decide

/-- The same: a cycle presented to an idle encoder, one presented to a busy encoder with a command held, and a cycle begun. -/
theorem witness_step_cycle :
    twoCycles.begun = [] ∧ twoCycles.waiting = [] ∧
    (∃ c ps, twoCycles.pending = .cycle c :: ps ∧ c.serial twoCycles.ebusy = [.cmd setidRecord]) ∧
    ((sending 0).hold setidRecord).begun = [] ∧ ((sending 0).hold setidRecord).ebusy = true ∧
    (⟨some (.read 2), none, none, true⟩ : Machine.Cycle).serial true = [.regRead 2, .txTake] ∧
    (nextOf (step ((sending 0).presentCycle ⟨some (.read 2), none, none, true⟩))).map (·.begun) = some [.txTake] :=
  ⟨by decide, by decide, ⟨_, _, rfl, by decide⟩, by decide⟩

/-- StepWithoutOperation: a held command and an idle encoder, nothing presented to an idle and to a busy encoder, and a cycle
with nothing to do. -/
theorem witness_no_operation :
    (State.reset.hold setidRecord).begun = [] ∧ (State.reset.hold setidRecord).waiting = [setidRecord] ∧
    (State.reset.hold setidRecord).ebusy = false ∧ State.reset.pending = [] ∧ ((sending 0).hold setidRecord).pending = [] ∧
    (State.reset.presentCycle ⟨none, none, none, true⟩).pending = [.cycle ⟨none, none, none, true⟩] ∧
    (⟨none, none, none, true⟩ : Machine.Cycle).serial false = [] := by
  decide

/-- HostSideIsUntouched: CMD and a CMD row on a busy encoder, a command on an idle one, RESET with a cycle begun, and
a frame row with one begun. -/
theorem witness_host_side :
    (nextOf (exec (.cmd setidRecord) (sending 0))).map (·.waiting) = some [setidRecord] ∧
    (nextOf (exec (.setid 2 (argsOf [0x00, 0x05])) (sending 0))).map (·.waiting) = some [setidRecord] ∧
    (nextOf (exec (.cmd setidRecord) State.reset)).map (·.waiting) = some [] ∧
    (nextOf (exec .reset { sending 0 with begun := [.txTake] })).map (·.begun) = some [.txTake] ∧
    begunOf (.boot [] 0x99) { sending 0 with begun := [.txTake] } = some [.rxByte 0xF0, .rxByte 0x00, .rxByte 0x99, .txTake] := by
  decide

/-- CycleOrderIsReadWorkWrite: a state with the invariants, and a cycle that reads IDENTITY there. -/
theorem witness_cycle :
    BlockInvariant started ∧
    (observe ((⟨some (.read 1), some 0x80, none, true⟩ : Machine.Cycle).serial started.ebusy) started).map (·.2) =
      some [[.regData 0x0007], []] :=
  ⟨witness_invariants.1, by decide⟩

end Sys2Proof.Tests
end

/-! Proofs of the statements on the state, the registers and every step (10_state.md): first everything `exec` can do, said once,
then the invariants, the host's lists and the registers. -/

namespace Sys2Proof.Proofs

open Sys2Proof.Machine Sys2Proof.Safety

/-! ### What an instruction does, said once -/

/-- The rows that take a byte on RX: the byte that arrives in the row's own step, and the bytes begun after it (logs 6 and 7). -/
inductive TakesByte : Instr → Byte → List Byte → Prop
  | rxByte (b : Byte) : TakesByte (.rxByte b) b []
  | sync : TakesByte .sync Config.sync []
  | frame (row : (List Byte → Byte → Instr) × Byte) (hrow : row ∈ typeRows) (args : List Byte) (crc : Byte) :
      TakesByte (row.1 args crc) Config.sync (row.2 :: BitVec.ofNat 8 args.length :: args ++ [crc])

/-- The rows that are CMD of a record (log 8). -/
inductive GivesCommand : Instr → CmdRecord → Prop
  | cmd (c : CmdRecord) : GivesCommand (.cmd c) c
  | row (row : (Nibble → Args → Instr) × Byte × Nat) (hrow : row ∈ commandRowsOf) (argc : Nibble) (arg : Args) :
      GivesCommand (row.1 argc arg) ⟨row.2.1, argc, arg⟩

theorem exec_takesByte {i : Instr} {b : Byte} {rest : List Byte} (h : TakesByte i b rest) (s : State) :
    exec i s = rxChunk (b :: rest) s.clearOut := by
  cases h with
  | rxByte b => rfl
  | sync => rfl
  | frame row hrow args crc =>
    simp only [typeRows, ackRows, List.cons_append, List.nil_append, List.mem_cons, List.not_mem_nil, or_false] at hrow
    rcases hrow with rfl | rfl | rfl | rfl | rfl | rfl | rfl | rfl | rfl | rfl | rfl <;> rfl

theorem exec_givesCommand {i : Instr} {c : CmdRecord} (h : GivesCommand i c) (s : State) :
    exec i s = cmdStep c s.clearOut := by
  cases h with
  | cmd c => rfl
  | row row hrow argc arg =>
    simp only [commandRowsOf, List.mem_cons, List.not_mem_nil, or_false] at hrow
    rcases hrow with rfl | rfl | rfl | rfl | rfl | rfl | rfl | rfl | rfl <;> rfl

theorem takesByte_typeRow (k : Nat) (hk : k < typeRows.length) (args : List Byte) (crc : Byte) :
    ∃ b rest, TakesByte (typeRows[k].1 args crc) b rest :=
  ⟨_, _, .frame typeRows[k] (List.getElem_mem hk) args crc⟩

theorem givesCommand_commandRow (k : Nat) (hk : k < commandRowsOf.length) (argc : Nibble) (arg : Args) :
    ∃ c, GivesCommand (commandRowsOf[k].1 argc arg) c :=
  ⟨_, .row commandRowsOf[k] (List.getElem_mem hk) argc arg⟩

/-- The six kinds of instruction. -/
theorem instr_kinds (i : Instr) :
    (∃ b rest, TakesByte i b rest) ∨ (∃ c, GivesCommand i c) ∨ i = .txTake ∨ (∃ j, i = .regRead j) ∨
      (∃ j v, i = .regWrite j v) ∨ i = .reset := by
  cases i with
  | rxByte b => exact .inl ⟨_, _, .rxByte b⟩
  | cmd c => exact .inr (.inl ⟨_, .cmd c⟩)
  | txTake => exact .inr (.inr (.inl rfl))
  | regRead j => exact .inr (.inr (.inr (.inl ⟨j, rfl⟩)))
  | regWrite j v => exact .inr (.inr (.inr (.inr (.inl ⟨j, v, rfl⟩))))
  | reset => exact .inr (.inr (.inr (.inr (.inr rfl))))
  | setid argc arg => exact .inr (.inl (givesCommand_commandRow 0 (by decide) argc arg))
  | cmpid argc arg => exact .inr (.inl (givesCommand_commandRow 1 (by decide) argc arg))
  | resetrx argc arg => exact .inr (.inl (givesCommand_commandRow 2 (by decide) argc arg))
  | setfreq argc arg => exact .inr (.inl (givesCommand_commandRow 3 (by decide) argc arg))
  | setchanbw argc arg => exact .inr (.inl (givesCommand_commandRow 4 (by decide) argc arg))
  | setdrate argc arg => exact .inr (.inl (givesCommand_commandRow 5 (by decide) argc arg))
  | setmod argc arg => exact .inr (.inl (givesCommand_commandRow 6 (by decide) argc arg))
  | settxpow argc arg => exact .inr (.inl (givesCommand_commandRow 7 (by decide) argc arg))
  | send argc arg => exact .inr (.inl (givesCommand_commandRow 8 (by decide) argc arg))
  | sync => exact .inl ⟨_, _, .sync⟩
  | ackSetid args crc => exact .inl (takesByte_typeRow 0 (by decide) args crc)
  | ackCmpid args crc => exact .inl (takesByte_typeRow 1 (by decide) args crc)
  | ackResetrx args crc => exact .inl (takesByte_typeRow 2 (by decide) args crc)
  | ackSetfreq args crc => exact .inl (takesByte_typeRow 3 (by decide) args crc)
  | ackSetchanbw args crc => exact .inl (takesByte_typeRow 4 (by decide) args crc)
  | ackSetdrate args crc => exact .inl (takesByte_typeRow 5 (by decide) args crc)
  | ackSetmod args crc => exact .inl (takesByte_typeRow 6 (by decide) args crc)
  | ackSettxpow args crc => exact .inl (takesByte_typeRow 7 (by decide) args crc)
  | ackSend args crc => exact .inl (takesByte_typeRow 8 (by decide) args crc)
  | boot args crc => exact .inl (takesByte_typeRow 9 (by decide) args crc)
  | telemetry args crc => exact .inl (takesByte_typeRow 10 (by decide) args crc)

/-- Every way an instruction gives a next state. -/
inductive ExecNext : Instr → State → State → Prop
  | dropped {i s b rest} (hi : TakesByte i b rest) (he : s.en = false) :
      ExecNext i s (s.clearOut.beginOps (rxRun rest))
  | read {i s b rest} (hi : TakesByte i b rest) (he : s.en = true) (ho : s.readerOk = true) :
      ExecNext i s (readByte b (s.clearOut.beginOps (rxRun rest)))
  | held {i s c} (hi : GivesCommand i c) (ho : s.encoderOk = true) (hb : s.ebusy = true) :
      ExecNext i s (s.clearOut.hold c)
  | taken {i s c} (hi : GivesCommand i c) (ho : s.encoderOk = true) (hb : s.ebusy = false) :
      ExecNext i s (takeCommand c s.clearOut)
  | sent {s} (ho : s.encoderOk = true) (hb : s.ebusy = true) : ExecNext .txTake s (takeByte s.clearOut)
  | regRead (j s) : ExecNext (.regRead j) s (s.clearOut.emit (.regData (s.register j)))
  | regWrite (j v s) : ExecNext (.regWrite j v) s (s.clearOut.writeRegister j v)
  | reset (s) : ExecNext .reset s { State.reset with begun := s.begun, waiting := s.waiting, pending := s.pending }

/-- The inversion of `exec`: a next state comes about in one of the ways of `ExecNext`. -/
theorem exec_next {i : Instr} {s t : State} (h : exec i s = .next t) : ExecNext i s t := by
  rcases instr_kinds i with ⟨b, rest, hi⟩ | ⟨c, hi⟩ | rfl | ⟨j, rfl⟩ | ⟨j, v, rfl⟩ | rfl
  · rw [exec_takesByte hi, rxChunk] at h
    rcases rxStep_cases b (s.clearOut.beginOps (rxRun rest)) with ⟨he, e⟩ | ⟨he, ho, e⟩ | ⟨_, _, e⟩ <;>
      cases e.symm.trans h
    · exact .dropped hi he
    · exact .read hi he ho
  · rw [exec_givesCommand hi] at h
    rcases cmdStep_cases c s.clearOut with ⟨_, e⟩ | ⟨ho, hb, e⟩ | ⟨ho, hb, e⟩ <;> cases e.symm.trans h
    · exact .held hi ho hb
    · exact .taken hi ho hb
  · rcases txStep_cases s.clearOut with ⟨_, e⟩ | ⟨_, _, e⟩ | ⟨ho, hb, e⟩ <;> cases e.symm.trans h
    exact .sent ho hb
  · cases h
    exact .regRead j s
  · cases h
    exact .regWrite j v s
  · cases h
    exact .reset s

/-! ### The invariants -/

theorem readerInvariant_congr {s t : State} (h : ReaderSame s t) (hi : ReaderInvariant s) : ReaderInvariant t := by
  obtain ⟨hrs, hrbuf, hrcnt⟩ := h
  unfold ReaderInvariant at *
  simpa only [hrs, hrbuf, hrcnt] using hi

theorem encoderInvariant_congr {s t : State} (h : EncoderSame s t) (hi : EncoderInvariant s) : EncoderInvariant t := by
  obtain ⟨hebusy, htbuf, htlen, htidx⟩ := h
  unfold EncoderInvariant at *
  simpa only [hebusy, htbuf, htlen, htidx] using hi

theorem stoppedInvariant_of_enabled {s : State} (h : s.en = true) : StoppedInvariant s := fun he => by
  rw [h] at he
  cases he

/-- Bytes move the reader alone, and only while it is enabled (R151, R161). -/
theorem readByte_blockInvariant (b : Byte) {s : State} (he : s.en = true) (hi : BlockInvariant s) :
    BlockInvariant (readByte b s) := by
  obtain ⟨hr, henc, _⟩ := hi
  obtain ⟨hebusy, htbuf, htlen, htidx, hen, _⟩ := readByte_frame b s
  exact ⟨(readerOk_iff _).mp (readByte_readerOk b s ((readerOk_iff s).mpr hr)),
    encoderInvariant_congr ⟨hebusy, htbuf, htlen, htidx⟩ henc, stoppedInvariant_of_enabled (hen.trans he)⟩

/-- What leaves the reader and the registers alone keeps the invariants if it keeps R30. -/
theorem blockInvariant_of_encoder {s t : State} (hr : ReaderSame s t) (hen : t.en = s.en) (ho : t.encoderOk = true)
    (hi : BlockInvariant s) : BlockInvariant t := by
  obtain ⟨hri, _, hst⟩ := hi
  exact ⟨readerInvariant_congr hr hri, (encoderOk_iff t).mp ho, fun he => hr.1.trans (hst (hen.symm.trans he))⟩

theorem takeCommand_blockInvariant (c : CmdRecord) {s : State} (hi : BlockInvariant s) :
    BlockInvariant (takeCommand c s) := by
  obtain ⟨hrs, hrbuf, hrcnt, hen, _⟩ := takeCommand_frame c s
  have ⟨_, henc, _⟩ := hi
  exact blockInvariant_of_encoder ⟨hrs, hrbuf, hrcnt⟩ hen (takeCommand_encoderOk c s ((encoderOk_iff s).mpr henc)) hi

theorem takeByte_blockInvariant {s : State} (hb : s.ebusy = true) (hi : BlockInvariant s) :
    BlockInvariant (takeByte s) := by
  obtain ⟨hrs, hrbuf, hrcnt, hen, _⟩ := takeByte_frame s
  have ⟨_, henc, _⟩ := hi
  exact blockInvariant_of_encoder ⟨hrs, hrbuf, hrcnt⟩ hen (takeByte_encoderOk s ((encoderOk_iff s).mpr henc) hb) hi

/-- Everything a register write can do (R211, R212, R214). -/
theorem writeRegister_cases (j : Nibble) (v : RegWord) (s : State) :
    (j = 0 ∧ v.getLsbD 0 = true ∧ s.writeRegister j v = { s with en := true }) ∨
      (j = 0 ∧ v.getLsbD 0 = false ∧ s.writeRegister j v = { s.seek with en := false }) ∨
      (j = 1 ∧ s.writeRegister j v = { s with id := v }) ∨ (2 ≤ j.toNat ∧ s.writeRegister j v = s) := by
  rcases regIndex_cases j with rfl | rfl | rfl | h3
  · rcases writeCtrl_cases v s with ⟨hv, e⟩ | ⟨hv, e⟩
    · exact .inl ⟨rfl, hv, e⟩
    · exact .inr (.inl ⟨rfl, hv, e⟩)
  · exact .inr (.inr (.inl ⟨rfl, writeRegister_identity v s⟩))
  · exact .inr (.inr (.inr ⟨le_refl 2, rfl⟩))
  · exact .inr (.inr (.inr ⟨by omega, writeRegister_ignored j v s (by omega)⟩))

/-- A stop leaves the reader in SEEK_SYNC with nothing held, and every other write leaves it alone (R211, R214). -/
theorem writeRegister_blockInvariant (j : Nibble) (v : RegWord) {s : State} (hi : BlockInvariant s) :
    BlockInvariant (s.writeRegister j v) := by
  obtain ⟨hr, henc, hst⟩ := hi
  rcases writeRegister_cases j v s with ⟨_, _, e⟩ | ⟨_, _, e⟩ | ⟨_, e⟩ | ⟨_, e⟩ <;> rw [e]
  · exact ⟨hr, henc, stoppedInvariant_of_enabled rfl⟩
  · exact ⟨(readerOk_iff _).mp rfl, henc, fun _ => rfl⟩
  · exact ⟨hr, henc, hst⟩
  · exact ⟨hr, henc, hst⟩

/-- Settles O43: the two checks of the machine evaluate to true at reset, and the reader is in SEEK_SYNC there. -/
theorem resetStateHasInvariants : Obligations.ResetStateHasInvariants :=
  ⟨(readerOk_iff _).mp rfl, (encoderOk_iff _).mp rfl, fun _ => rfl⟩

/-- Every instruction that gives a next state keeps the invariants. -/
theorem exec_blockInvariant {i : Instr} {s t : State} (hi : BlockInvariant s) (h : exec i s = .next t) :
    BlockInvariant t := by
  cases exec_next h with
  | dropped => exact hi
  | read _ he => exact readByte_blockInvariant _ he hi
  | held => exact hi
  | taken => exact takeCommand_blockInvariant _ hi
  | sent _ hb => exact takeByte_blockInvariant hb hi
  | regRead => exact hi
  | regWrite => exact writeRegister_blockInvariant _ _ hi
  | reset => exact resetStateHasInvariants

/-- Settles O44: taking the next operation leaves the block alone, and every operation keeps the invariants. -/
theorem everyStepKeepsInvariants : Obligations.EveryStepKeepsInvariants := by
  intro s t hi h
  have hf : BlockInvariant s.fetch.2 := blockInvariant_congr (fetch_block s).1 hi
  rcases step_cases s with ⟨_, e⟩ | ⟨i, _, e⟩ | ⟨_, _, e⟩ <;> rw [e] at h
  · cases h
    exact hf
  · exact exec_blockInvariant hf h
  · cases h

/-! ### rbuf[13] -/

/-- With R26 a byte is stored at index 12 at most: LEN is at most 10, and the CRC byte is not stored (R24, R158, R159). -/
theorem readByte_rbuf_last (b : Byte) (s : State) (ho : s.readerOk = true) : (readByte b s).rbuf[13] = s.rbuf[13] := by
  have hopen : s.rs = .accumulating → s.rcnt.toNat + 1 < s.rbuf[2].toNat + 4 → s.rcnt.toNat ≠ 13 := fun hr hn h => by
    obtain ⟨-, -, hacc⟩ := (readerOk_iff s).mp ho
    obtain ⟨-, -, -, -, hlen⟩ := hacc.mp hr
    have hle := hlen (by omega)
    omega
  rcases readByte_cases b s with ⟨_, _, e⟩ | ⟨_, _, e⟩ | ⟨_, _, e⟩ | ⟨_, _, e⟩ | ⟨_, _, _, e⟩ | ⟨_, _, _, e⟩ |
    ⟨hr, _, hn, e⟩ | ⟨_, _, _, _, e⟩ | ⟨_, _, _, _, e⟩ <;> simp [e]
  exact Vector.getElem_setIfInBounds_ne _ (hopen hr hn)

/-- A register write never touches the reader's buffer (R211, R214). -/
@[simp] theorem writeRegister_rbuf (j : Nibble) (v : RegWord) (s : State) : (s.writeRegister j v).rbuf = s.rbuf := by
  rcases writeRegister_cases j v s with ⟨_, _, e⟩ | ⟨_, _, e⟩ | ⟨_, e⟩ | ⟨_, e⟩ <;> rw [e]
  rfl

/-- No instruction writes `rbuf[13]` but RESET, which gives it the reset value (R24, R260). -/
theorem exec_rbuf_last {i : Instr} {s t : State} (h : exec i s = .next t) :
    t.rbuf[13] = s.rbuf[13] ∨ t.rbuf[13] = 0 := by
  cases exec_next h with
  | dropped => exact .inl rfl
  | read _ _ ho => exact .inl (readByte_rbuf_last _ _ ho)
  | held => exact .inl rfl
  | @taken _ _ c =>
    obtain ⟨_, hrbuf, _⟩ := takeCommand_frame c s.clearOut
    exact .inl (by simp [hrbuf])
  | sent =>
    obtain ⟨_, hrbuf, _⟩ := takeByte_frame s.clearOut
    exact .inl (by simp [hrbuf])
  | regRead => exact .inl rfl
  | regWrite j v => exact .inl (by simp)
  | reset => exact .inr rfl

/-- Settles O45: a step is an instruction on a state with the same block, and a byte is stored at index 12 at most. -/
theorem lastBufferByteIsNeverWritten : Obligations.LastBufferByteIsNeverWritten := by
  intro s t _ h0 h
  obtain ⟨⟨_, hrbuf, _⟩, _⟩ := (fetch_block s).1
  have hf : s.fetch.2.rbuf[13] = 0 := by simpa only [hrbuf] using h0
  rcases step_cases s with ⟨_, e⟩ | ⟨i, _, e⟩ | ⟨_, _, e⟩ <;> rw [e] at h
  · cases h
    exact hf
  · rcases exec_rbuf_last h with hk | hz
    · exact hk.trans hf
    · exact hz
  · cases h

/-! ### The host's lists -/

theorem typeRow_fmt : ∀ row ∈ typeRows, ∀ args crc, (encode (row.1 args crc)).fmt = .frame := by
  simp [typeRows, ackRows, encode]

theorem commandRow_fmt : ∀ row ∈ commandRowsOf, ∀ argc arg, (encode (row.1 argc arg)).fmt = .catalog := by
  simp [commandRowsOf, encode]

/-- What is not spelled as a frame is none of the FRAME_TYPE rows (R85). -/
theorem ne_typeRow {i : Instr} (h : (encode i).fmt ≠ .frame) : ∀ row ∈ typeRows, ∀ args crc, i ≠ row.1 args crc := by
  rintro row hrow args crc rfl
  exact h (typeRow_fmt row hrow args crc)

theorem givesCommand_fmt_ne_frame {i : Instr} {c : CmdRecord} (h : GivesCommand i c) : (encode i).fmt ≠ .frame := by
  cases h with
  | cmd c => simp [encode]
  | row row hrow argc arg => simp [commandRow_fmt row hrow]

/-- What a row that takes a byte leaves begun: what was begun, or a FRAME_TYPE row's other bytes before it (log 6). -/
theorem takesByte_begun {i : Instr} {b : Byte} {rest : List Byte} (h : TakesByte i b rest) (old : List Instr) :
    (rxRun rest ++ old = old ∧ ∀ row ∈ typeRows, ∀ args crc, i ≠ row.1 args crc) ∨
      ∃ row ∈ typeRows, ∃ args crc, i = row.1 args crc ∧
        rxRun rest ++ old = rxRun (row.2 :: BitVec.ofNat 8 args.length :: args ++ [crc]) ++ old := by
  cases h with
  | rxByte b => exact .inl ⟨rfl, ne_typeRow (by simp [encode])⟩
  | sync => exact .inl ⟨rfl, ne_typeRow (by simp [encode])⟩
  | frame row hrow args crc => exact .inr ⟨row, hrow, args, crc, rfl, rfl⟩

theorem writeRegister_host (j : Nibble) (v : RegWord) (s : State) :
    (s.writeRegister j v).begun = s.begun ∧ (s.writeRegister j v).waiting = s.waiting ∧
      (s.writeRegister j v).pending = s.pending := by
  rcases writeRegister_cases j v s with ⟨_, _, e⟩ | ⟨_, _, e⟩ | ⟨_, e⟩ | ⟨_, e⟩ <;> rw [e] <;> exact ⟨rfl, rfl, rfl⟩

/-- Settles O59: instruction by instruction, what each can do with the host's three lists. -/
theorem hostSideIsUntouched : Obligations.HostSideIsUntouched := by
  intro i s t h
  cases exec_next h with
  | dropped hi => exact ⟨rfl, takesByte_begun hi _, .inl rfl⟩
  | @read _ _ b rest hi =>
    obtain ⟨_, _, _, _, _, _, hwaiting, hpending, hbegun⟩ := readByte_frame b (s.clearOut.beginOps (rxRun rest))
    rw [hpending, hwaiting, hbegun]
    exact ⟨rfl, takesByte_begun hi _, .inl rfl⟩
  | @held _ _ c hi _ hb =>
    refine ⟨rfl, .inl ⟨rfl, ne_typeRow (givesCommand_fmt_ne_frame hi)⟩, .inr ⟨hb, ?_⟩⟩
    cases hi with
    | cmd c => exact .inl ⟨c, rfl, rfl⟩
    | row row hrow argc arg => exact .inr ⟨row, hrow, argc, arg, rfl, rfl⟩
  | @taken _ _ c hi =>
    obtain ⟨_, _, _, _, _, hwaiting, hpending, hbegun⟩ := takeCommand_frame c s.clearOut
    exact ⟨hpending, .inl ⟨hbegun, ne_typeRow (givesCommand_fmt_ne_frame hi)⟩, .inl hwaiting⟩
  | sent =>
    obtain ⟨_, _, _, _, _, hwaiting, hpending, _, _, hbegun⟩ := takeByte_frame s.clearOut
    exact ⟨hpending, .inl ⟨hbegun, ne_typeRow (by simp [encode])⟩, .inl hwaiting⟩
  | regRead => exact ⟨rfl, .inl ⟨rfl, ne_typeRow (by simp [encode])⟩, .inl rfl⟩
  | regWrite j v =>
    obtain ⟨hbegun, hwaiting, hpending⟩ := writeRegister_host j v s.clearOut
    exact ⟨hpending, .inl ⟨hbegun, ne_typeRow (by simp [encode])⟩, .inl hwaiting⟩
  | reset => exact ⟨rfl, .inl ⟨rfl, ne_typeRow (by simp [encode])⟩, .inl rfl⟩

/-! ### A step with no operation -/

theorem fetch_held (s : State) (c : CmdRecord) (cs : List CmdRecord) (hb : s.begun = []) (hw : s.waiting = c :: cs)
    (hi : s.ebusy = false) : s.fetch = (some (.ok (.cmd c)), { s with waiting := cs }) := by
  simp [State.fetch, State.fetchBetween, hb, hw, hi]

theorem fetchPresented_nil (s : State) (h : s.pending = []) : s.fetchPresented = (none, s) := by
  simp [State.fetchPresented, h]

theorem fetchPresented_idle_cycle (s : State) (c : Machine.Cycle) (ps : List Presented) (h : s.pending = .cycle c :: ps)
    (hc : c.serial s.ebusy = []) : s.fetchPresented = (none, { s with pending := ps }) := by
  simp [State.fetchPresented, h, hc]

theorem step_of_fetch_none {s u : State} (h : s.fetch = (none, u)) : step s = .next u.clearOut := by
  simp [step, h]

theorem step_of_fetch_ok {s u : State} {i : Instr} (h : s.fetch = (some (.ok i), u)) : step s = exec i u := by
  simp [step, h]

/-- Clearing the outputs leaves the block alone (R37). -/
theorem blockSame_clearOut (s : State) : BlockSame s s.clearOut := ⟨⟨rfl, rfl, rfl⟩, ⟨rfl, rfl, rfl, rfl⟩, rfl, rfl⟩

/-- Settles O58: what `fetch` takes in each of the three cases, and the step of it. -/
theorem stepWithoutOperation : Obligations.StepWithoutOperation := by
  intro s hb
  refine ⟨fun c cs hw hi => step_of_fetch_ok (fetch_held s c cs hb hw hi), fun hw => ⟨fun hp => ?_, fun c ps hp hc => ?_⟩⟩
  · have hf : s.fetch = (none, s) := (fetch_presented s hb hw).trans (fetchPresented_nil s hp)
    exact ⟨s.clearOut, step_of_fetch_none hf, rfl, blockSame_clearOut s, hb, rfl, hp⟩
  · have hf : s.fetch = (none, { s with pending := ps }) :=
      (fetch_presented s hb hw).trans (fetchPresented_idle_cycle s c ps hp hc)
    exact ⟨_, step_of_fetch_none hf, rfl, blockSame_clearOut s, hb, rfl, rfl⟩

/-! ### Registers and reset -/

/-- Settles O1: each field of `State.reset` is written as R39 gives it. -/
theorem resetStateValues : Obligations.ResetStateValues := ⟨rfl, rfl, rfl, rfl, rfl, rfl, rfl, rfl, rfl⟩

theorem exec_regRead (j : Nibble) (s : State) :
    exec (.regRead j) s = .next (s.clearOut.emit (.regData (s.register j))) := rfl

theorem exec_regWrite (j : Nibble) (v : RegWord) (s : State) :
    exec (.regWrite j v) s = .next (s.clearOut.writeRegister j v) := rfl

/-- A write that STATUS or a reserved index ignores is a step that only clears the outputs (R35, R36). -/
theorem exec_regWrite_ignored (j : Nibble) (v : RegWord) (s : State) (h : 2 ≤ j.toNat) :
    exec (.regWrite j v) s = .next s.clearOut := by
  rw [exec_regWrite, writeRegister_ignored j v s.clearOut h]

/-- Settles O6: the write sets IDENTITY to the value whole, and the read gives IDENTITY. -/
theorem identityReadsBack : Obligations.IdentityReadsBack := by
  intro s v
  refine ⟨_, _, exec_regWrite 1 v s, exec_regRead 1 _, ?_⟩
  rw [writeRegister_identity]
  simp

/-- Settles O7: a reserved index ignores the write and reads 0. -/
theorem reservedIndicesReadZero : Obligations.ReservedIndicesReadZero := by
  intro s i v h
  refine ⟨_, _, exec_regWrite_ignored i v s (by omega), rfl, blockSame_clearOut s, exec_regRead i _, ?_,
    blockSame_clearOut s⟩
  simp [register_reserved _ i h]

/-- The fields of a word put together as R35 puts STATUS together. -/
theorem status_fields (busy : Bool) (cnt : Nibble) (code : BitVec 2) :
    let w : RegWord := ((BitVec.ofBool busy).setWidth 16 <<< 6) ||| (cnt.setWidth 16 <<< 2) ||| code.setWidth 16
    w.extractLsb' 0 2 = code ∧ w.extractLsb' 2 4 = cnt ∧ w.getLsbD 6 = busy ∧ w.extractLsb' 7 9 = 0 := by
  decide +revert

theorem readerState_code_ne_three (r : ReaderState) : r.code ≠ 3 := by
  cases r <;> decide

theorem readerInvariant_rcnt_le {s : State} (hi : ReaderInvariant s) : s.rcnt.toNat ≤ 13 := by
  obtain ⟨hseek, hgot, hacc⟩ := hi
  rcases hr : s.rs with _ | _ | _
  · have := hseek.mp hr
    omega
  · have := hgot.mp hr
    omega
  · have := hacc.mp hr
    omega

/-- Settles O4: the fields of the word, the codes of the three reader states, R26's bound and the ignored write. -/
theorem statusFieldsAreViews : Obligations.StatusFieldsAreViews := by
  intro s
  obtain ⟨hstate, hcnt, hbusy, hrest⟩ := status_fields s.ebusy s.rcnt s.rs.code
  exact ⟨hstate, hcnt, hbusy, hrest, fun h => readerState_code_ne_three s.rs (hstate.symm.trans h),
    congrArg ReaderState.code, congrArg ReaderState.code, congrArg ReaderState.code, readerInvariant_rcnt_le,
    fun v => ⟨_, exec_regWrite_ignored 2 v s (by decide), rfl, blockSame_clearOut s⟩, rfl⟩

/-- A byte stops the machine exactly on an enabled reader outside R26 (I4; log 10). -/
theorem rxStep_fault_iff (b : Byte) (s : State) :
    rxStep b s = .fault .readerInvariant ↔ s.en = true ∧ ¬ ReaderInvariant s := by
  rw [← readerOk_iff]
  rcases rxStep_cases b s with ⟨he, e⟩ | ⟨he, ho, e⟩ | ⟨he, ho, e⟩ <;> simp [*]

/-- Settles O30: RX_BYTE and SYNC are `rxStep` on the state without its outputs, which R26 does not see. -/
theorem readerFaultsOnlyOutsideInvariant : Obligations.ReaderFaultsOnlyOutsideInvariant :=
  fun s b => ⟨rxStep_fault_iff b s.clearOut, rxStep_fault_iff Config.sync s.clearOut⟩

end Sys2Proof.Proofs

/-! Proofs of the statements on bytes in flight (20_memory.md): a command's frame on TX, the reader's view of a state, and a frame row
as its bytes on RX. -/

namespace Sys2Proof.Proofs

open Sys2Proof.Machine Sys2Proof.Safety

/-! ### A frame leaves on TX -/

/-- The bytes of the frame in `tbuf` that the host has yet to take (R29, R133). -/
def unsent (s : State) : List Byte := (s.tbuf.toList.take s.tlen.toNat).drop s.tidx.toNat

theorem exec_txTake_busy (s : State) (ho : s.encoderOk = true) (hb : s.ebusy = true) :
    exec .txTake s = .next (takeByte s.clearOut) := by
  have hok : s.clearOut.encoderOk = true := ho
  rcases txStep_cases s.clearOut with ⟨h, _⟩ | ⟨_, h, _⟩ | ⟨_, _, e⟩
  · cases hok.symm.trans h
  · cases hb.symm.trans h
  · exact e

/-- The last byte makes the encoder idle (R133). -/
theorem takeByte_last (s : State) (h : s.tidx.toNat + 1 = s.tlen.toNat) :
    takeByte s = (s.emit (.tx (byteAt s.tbuf s.tidx.toNat))).endTx := by
  simp [takeByte, h]

/-- Any other byte leaves the encoder ready for the next (R133). -/
theorem takeByte_more (s : State) (h : s.tidx.toNat + 1 ≠ s.tlen.toNat) :
    takeByte s = (s.emit (.tx (byteAt s.tbuf s.tidx.toNat))).nextTx := by
  simp [takeByte, h]

theorem idle_of_encoderOk {s : State} (ho : s.encoderOk = true) (hb : s.ebusy = false) : Idle s :=
  ⟨hb, ((encoderOk_iff s).mp ho).1 hb⟩

theorem encoderOk_of_idle {s : State} (h : Idle s) : s.encoderOk = true := by
  obtain ⟨hb, htlen, htidx⟩ := h
  exact (encoderOk_iff s).mpr ⟨fun _ => ⟨htlen, htidx⟩, fun h => by cases hb.symm.trans h⟩

theorem unsent_idle {s : State} (h : Idle s) : unsent s = [] := by
  obtain ⟨_, htlen, _⟩ := h
  simp [unsent, htlen]

/-- With R30 a busy encoder's frame lies inside `tbuf`. -/
theorem tidx_lt_tlen_le {s : State} (ho : s.encoderOk = true) (hb : s.ebusy = true) :
    s.tidx.toNat < s.tlen.toNat ∧ s.tlen.toNat ≤ 11 := by
  obtain ⟨_, hlen, hlt, _⟩ := ((encoderOk_iff s).mp ho).2 hb
  simp only [List.mem_cons, List.not_mem_nil, or_false] at hlen
  omega

/-- A TX_TAKE takes the first of the bytes to be taken and leaves the others (R133). -/
theorem unsent_takeByte {s : State} (ho : s.encoderOk = true) (hb : s.ebusy = true) :
    unsent s = byteAt s.tbuf s.tidx.toNat :: unsent (takeByte s) := by
  obtain ⟨hlt, hle⟩ := tidx_lt_tlen_le ho hb
  have hlen : s.tidx.toNat < (s.tbuf.toList.take s.tlen.toNat).length := by
    simpa using ⟨hlt, show s.tidx.toNat < 11 by omega⟩
  have hhead : (s.tbuf.toList.take s.tlen.toNat)[s.tidx.toNat] = byteAt s.tbuf s.tidx.toNat := by
    rw [byteAt_eq_getElem _ _ (show s.tidx.toNat < 11 by omega)]
    simp
  have hrest : unsent (takeByte s) = (s.tbuf.toList.take s.tlen.toNat).drop (s.tidx.toNat + 1) := by
    by_cases h : s.tidx.toNat + 1 = s.tlen.toNat
    · simp [takeByte_last s h, unsent, h]
    · have hm : (s.tidx.toNat + 1) % 16 = s.tidx.toNat + 1 := by omega
      simp [takeByte_more s h, unsent, hm]
  rw [unsent, List.drop_eq_getElem_cons hlen, hhead, hrest]

/-- With R30 the encoder is busy exactly while there is a byte to be taken. -/
theorem ebusy_iff_unsent {s : State} (ho : s.encoderOk = true) : s.ebusy = true ↔ unsent s ≠ [] := by
  rcases hb : s.ebusy with _ | _
  · simp [unsent_idle (idle_of_encoderOk ho hb)]
  · simp [unsent_takeByte ho hb]

/-- From every state with R30, a TX_TAKE for each byte to be taken gives those bytes in order and leaves the encoder idle
(R63, R133). -/
theorem observe_txTake (s : State) (ho : s.encoderOk = true) :
    ∃ t, observe (List.replicate (unsent s).length .txTake) s = some (t, (unsent s).map fun b => [.tx b]) ∧
      Idle t ∧ ReaderSame s t ∧ RegistersSame s t := by
  induction hu : unsent s generalizing s with
  | nil =>
    have hb : s.ebusy = false := by simpa [hu] using ebusy_iff_unsent ho
    exact ⟨s, rfl, idle_of_encoderOk ho hb, ⟨rfl, rfl, rfl⟩, rfl, rfl⟩
  | cons b bs ih =>
    have hb : s.ebusy = true := (ebusy_iff_unsent ho).mpr (by simp [hu])
    obtain ⟨hbyte, hrest⟩ := List.cons.inj ((unsent_takeByte (s := s.clearOut) ho hb).symm.trans hu)
    obtain ⟨hrs, hrbuf, hrcnt, hen, hid, _, _, _, hout, _⟩ := takeByte_frame s.clearOut
    obtain ⟨t, hrun, hidle, ⟨hrs', hrbuf', hrcnt'⟩, hen', hid'⟩ :=
      ih (takeByte s.clearOut) (takeByte_encoderOk s.clearOut ho hb) hrest
    refine ⟨t, ?_, hidle, ⟨hrs'.trans hrs, hrbuf'.trans hrbuf, hrcnt'.trans hrcnt⟩, hen'.trans hen, hid'.trans hid⟩
    rw [List.length_cons, List.replicate_succ, observe]
    simp only [exec_txTake_busy s ho hb, hrun, hout, hbyte]
    rfl

/-! ### A command's frame -/

theorem argc_le_seven {c : CmdRecord} (h : catalogArgc c.opcode = some c.argc) : c.argc.toNat ≤ 7 := by
  have hk := catalogArgc_count h
  simp only [List.mem_cons, List.not_mem_nil, or_false] at hk
  omega

/-- The frame of an accepted record is the wire frame of its opcode and its first `argc` argument bytes (R70, R120). -/
theorem commandFrame_eq_wireFrame {c : CmdRecord} (h : catalogArgc c.opcode = some c.argc) :
    commandFrame c.opcode c.argc (usedArgs c) = wireFrame c.opcode (c.arg.toList.take c.argc.toNat) := by
  have hlen : (c.arg.toList.take c.argc.toNat).length = c.argc.toNat :=
    used_length c ((argc_le_seven h).trans (by decide))
  rw [wireFrame, hlen, BitVec.ofNat_toNat]
  rfl

theorem takeCommand_accepted {c : CmdRecord} (s : State) (h : catalogArgc c.opcode = some c.argc) :
    takeCommand c s = s.loadFrame (commandFrame c.opcode c.argc (usedArgs c)) := by
  simp [takeCommand, h]

theorem exec_cmd_idle {s : State} (c : CmdRecord) (h : Idle s) : exec (.cmd c) s = .next (takeCommand c s.clearOut) := by
  have ⟨hb, _⟩ := h
  have hok : s.clearOut.encoderOk = true := encoderOk_of_idle h
  rcases cmdStep_cases c s.clearOut with ⟨hno, _⟩ | ⟨_, hbusy, _⟩ | ⟨_, _, e⟩
  · cases hok.symm.trans hno
  · cases hb.symm.trans hbusy
  · exact e

/-- A frame just loaded is to be taken whole. -/
theorem unsent_loadFrame (f : List Byte) (s : State) (h : f.length ≤ 11) : unsent (s.loadFrame f) = f := by
  have hm : f.length % 16 = f.length := by omega
  simp [unsent, hm, writeFrom_zero_take _ f h]

/-- Settles O19: the frame loaded is what is yet to be taken, and TX_TAKE takes all of it. -/
theorem acceptedCommandIsTransmitted : Obligations.AcceptedCommandIsTransmitted := by
  intro s c hidle hc
  have h7 := argc_le_seven hc
  have hlen := commandFrame_used c h7
  have hload := takeCommand_accepted s.clearOut hc
  have hunsent : unsent (takeCommand c s.clearOut) = commandFrame c.opcode c.argc (usedArgs c) := by
    rw [hload, unsent_loadFrame _ _ (by omega)]
  obtain ⟨t, hrun, ht⟩ :=
    observe_txTake (takeCommand c s.clearOut) (takeCommand_encoderOk c s.clearOut (encoderOk_of_idle hidle))
  rw [hunsent, hlen, commandFrame_eq_wireFrame hc] at hrun
  rw [hload] at ht hrun
  refine ⟨t, ?_, ht⟩
  simp only [observe, exec_cmd_idle c hidle, hload, hrun]
  rfl

/-! ### What the reader sees -/

/-- A state as the reader sees it: its own fields, EN, IDENTITY and the outputs, all else as at reset. -/
def readerView (s : State) : State :=
  { State.reset with rs := s.rs, rbuf := s.rbuf, rcnt := s.rcnt, en := s.en, id := s.id, out := s.out }

theorem readerView_eq_iff (s t : State) :
    readerView s = readerView t ↔ ReaderSame s t ∧ RegistersSame s t ∧ s.out = t.out := by
  simp only [readerView, ReaderSame, RegistersSame, State.mk.injEq]
  grind

/-- A byte reads and writes what the reader sees, and nothing else (R64, R151). -/
theorem readByte_readerView (b : Byte) (s : State) : readByte b (readerView s) = readerView (readByte b s) := by
  have hrs : (readerView s).rs = s.rs := rfl
  have finish : finishFrame b (readerView s) = readerView (finishFrame b s) := by
    simp only [finishFrame, apply_ite readerView]
    rfl
  have len : readLen b (readerView s) = readerView (readLen b s) := by
    simp only [readLen, apply_ite readerView]
    rfl
  rcases hr : s.rs with _ | _ | _ <;> simp only [readByte, hrs, hr, finish, len, apply_ite readerView] <;> rfl

/-- Two states that look the same to the reader answer a byte alike. -/
theorem rxStep_readerView {s t : State} (b : Byte) (h : readerView s = readerView t) :
    (∀ u, rxStep b s = .next u → ∃ v, rxStep b t = .next v ∧ readerView u = readerView v) ∧
      (∀ r, rxStep b s = .fault r → rxStep b t = .fault r) := by
  have hen : s.en = t.en := (congrArg State.en h :)
  have hok : s.readerOk = t.readerOk := (congrArg State.readerOk h :)
  have hread : readerView (readByte b s) = readerView (readByte b t) := by
    rw [← readByte_readerView, h, readByte_readerView]
  rcases rxStep_cases b s with ⟨he, e⟩ | ⟨he, ho, e⟩ | ⟨he, ho, e⟩ <;> rw [e]
  · have e' := rxStep_stopped b t (hen ▸ he)
    exact ⟨fun u hu => ⟨t, e', by cases hu; exact h⟩, nofun⟩
  · have e' := rxStep_enabled b t (hen ▸ he) (hok ▸ ho)
    exact ⟨fun u hu => ⟨_, e', by cases hu; exact hread⟩, nofun⟩
  · exact ⟨nofun, fun r hr => by cases hr; simp [rxStep, ← hen, ← hok, he, ho]⟩

/-- Settles O32: the two states look the same to the reader once the last step's outputs are gone. -/
theorem readerIgnoresEncoder : Obligations.ReaderIgnoresEncoder := by
  intro s t b hr hreg
  have hview : readerView s.clearOut = readerView t.clearOut := (readerView_eq_iff _ _).mpr ⟨hr, hreg, rfl⟩
  obtain ⟨hnext, hfault⟩ := rxStep_readerView b hview
  refine ⟨fun u hu => ?_, hfault⟩
  obtain ⟨v, hv, huv⟩ := hnext u hu
  exact ⟨v, hv, (readerView_eq_iff u v).mp huv⟩


/-! ### A frame row as its bytes -/

/-- A run that begins with RX_BYTE: its first step, and the run of the rest. -/
theorem observe_rxByte_cons {b : Byte} {is : List Instr} {s t : State} {outs : List (List Output)}
    (h : observe (.rxByte b :: is) s = some (t, outs)) :
    ∃ u, rxStep b s.clearOut = .next u ∧ observe is u = some (t, outs.tail) ∧ outs = u.out :: outs.tail := by
  have e : exec (.rxByte b) s = rxStep b s.clearOut := rfl
  rw [observe, e] at h
  rcases hx : rxStep b s.clearOut with u | _ | _ <;> rw [hx] at h <;> try cases h
  obtain ⟨⟨v, rest⟩, hrun, hpair⟩ := Option.map_eq_some_iff.mp h
  cases hpair
  exact ⟨u, rfl, hrun, rfl⟩

theorem rxStep_host {b : Byte} {s t : State} (h : rxStep b s = .next t) :
    t.waiting = s.waiting ∧ t.pending = s.pending := by
  rcases rxStep_cases b s with ⟨_, e⟩ | ⟨_, _, e⟩ | ⟨_, _, e⟩ <;> cases e.symm.trans h
  · exact ⟨rfl, rfl⟩
  · obtain ⟨_, _, _, _, _, _, hwaiting, hpending, _⟩ := readByte_frame b s
    exact ⟨hwaiting, hpending⟩

/-- Bytes leave what the host holds and what it has yet to present. -/
theorem observe_rxRun_host (bs : List Byte) {s t : State} {outs : List (List Output)}
    (h : observe (rxRun bs) s = some (t, outs)) : t.waiting = s.waiting ∧ t.pending = s.pending := by
  induction bs generalizing s outs with
  | nil =>
    cases h
    exact ⟨rfl, rfl⟩
  | cons b bs ih =>
    obtain ⟨u, hu, hrun, _⟩ := observe_rxByte_cons h
    obtain ⟨hwaiting, hpending⟩ := ih hrun
    obtain ⟨hwaiting', hpending'⟩ := rxStep_host hu
    exact ⟨hwaiting.trans hwaiting', hpending.trans hpending'⟩

/-- The bytes of a frame row after SYNC: TYPE, LEN, ARGS and CRC (R70). -/
abbrev frameRest (ty : Byte) (args : List Byte) (crc : Byte) : List Byte :=
  ty :: BitVec.ofNat 8 args.length :: args ++ [crc]

/-- A frame row's own step: RX_BYTE of SYNC, with the other bytes begun (R51; log 6). -/
theorem exec_frameRow {row : (List Byte → Byte → Instr) × Byte} (hrow : row ∈ typeRows) (args : List Byte) (crc : Byte)
    {s t : State} (h : rxStep Config.sync s.clearOut = .next t) :
    exec (row.1 args crc) s = .next (t.setBegun (rxRun (frameRest row.2 args crc) ++ s.begun)) := by
  rw [exec_takesByte (.frame row hrow args crc), rxChunk_cons _ _ _ _ h]
  rfl

theorem exec_frameRow_fault {row : (List Byte → Byte → Instr) × Byte} (hrow : row ∈ typeRows) (args : List Byte)
    (crc : Byte) {s : State} {r : Fault} (h : rxStep Config.sync s.clearOut = .fault r) :
    exec (row.1 args crc) s = .fault r := by
  rw [exec_takesByte (.frame row hrow args crc)]
  rcases rxChunk_cases Config.sync (frameRest row.2 args crc) s.clearOut with ⟨t, e, _⟩ | ⟨e, e'⟩
  · cases e.symm.trans h
  · exact e'.trans (e.symm.trans h)

/-- The run of a frame's bytes, as the step that takes SYNC and the steps that run the others once they are begun (R51; log 6). -/
theorem runSteps_frame {ty : Byte} {args : List Byte} {crc : Byte} {s t : State} {outs : List (List Output)}
    (h : observe (rxRun (frameBytes ty args crc)) s = some (t, outs)) :
    ∃ u, rxStep Config.sync s.clearOut = .next u ∧ outs = u.out :: outs.tail ∧
      runSteps (args.length + 3) (u.setBegun (rxRun (frameRest ty args crc) ++ s.begun)) =
        some (t.setBegun s.begun, outs.tail) := by
  obtain ⟨u, hu, hrun, houts⟩ := observe_rxByte_cons h
  have hsteps := runSteps_rxRun (frameRest ty args crc) u t s.begun outs.tail hrun
  rw [show (frameRest ty args crc).length = args.length + 3 by simp] at hsteps
  exact ⟨u, hu, houts, hsteps⟩

/-- Settles O42: the row's own step is RX_BYTE of SYNC with the other bytes begun, and these run as their RX_BYTE do. -/
theorem frameIsItsBytes : Obligations.FrameIsItsBytes := by
  intro row hrow s args crc
  refine ⟨fun t ht => exec_frameRow hrow args crc ht, fun r hr => exec_frameRow_fault hrow args crc hr,
    fun t outs hrun => ?_⟩
  obtain ⟨u, hu, houts, hsteps⟩ := runSteps_frame hrun
  obtain ⟨hwaiting, hpending⟩ := observe_rxRun_host (frameBytes row.2 args crc) hrun
  exact ⟨_, t.setBegun s.begun, exec_frameRow hrow args crc hu, hsteps, houts,
    ⟨⟨rfl, rfl, rfl⟩, ⟨rfl, rfl, rfl, rfl⟩, rfl, rfl⟩, rfl, hwaiting, hpending⟩

/-! ### A frame row on a ready reader -/

/-- SYNC on a ready reader starts a candidate frame (R152). -/
theorem rxStep_sync_ready {s : State} (h : Ready s) :
    rxStep Config.sync s.clearOut = .next (s.clearOut.collect 0 Config.sync .gotType) := by
  obtain ⟨hen, hrs, hrcnt⟩ := h
  rw [rxStep_enabled Config.sync s.clearOut hen (by simp [State.readerOk, hrs, hrcnt])]
  simp [readByte, hrs]

theorem typeRow_recognised : ∀ row ∈ typeRows, recognised row.2 = true := by decide

/-- What the last byte of a frame puts out: the frame's record if the byte is its CRC, else BAD_CRC (R159, R160). -/
def frameOutput (ty : Byte) (args : List Byte) (crc : Byte) (id : Identity) : Output :=
  if crc = crc8 (ty :: BitVec.ofNat 8 args.length :: args) then .frame (classify (frameBytes ty args crc) id)
  else .rxevt ⟨evBadCrc, crc, crc8 (ty :: BitVec.ofNat 8 args.length :: args)⟩

/-- Every frame row on a ready reader, whatever its CRC byte (R152 to R160; log 6). -/
theorem frameRow_readsFrame {row : (List Byte → Byte → Instr) × Byte} (hrow : row ∈ typeRows) (args : List Byte)
    (crc : Byte) (s : State) (h : Ready s) (hl : args.length ≤ 10) :
    ReadsFrame (row.1 args crc) row.2 args crc s (frameOutput row.2 args crc s.id) := by
  have ⟨_, hrs, _⟩ := h
  have ht := typeRow_recognised row hrow
  have hrun := observe_frame row.2 args crc s h ht hl
  rw [readBytes_frame row.2 args crc s.clearOut hrs ht hl] at hrun
  obtain ⟨u, hu, -, hsteps⟩ := runSteps_frame hrun
  cases (rxStep_sync_ready h).symm.trans hu
  have hhead : (frameHead row.2 args).length = args.length + 3 := frameHead_length row.2 args
  have hfit : (frameHead row.2 args).length ≤ Config.rbufBytes := hhead.trans_le (by omega : args.length + 3 ≤ 14)
  refine ⟨_, _, exec_frameRow hrow args crc hu, rfl, rfl, rfl, ?_, fun j hj => ?_, ⟨rfl, rfl, rfl, rfl⟩, ⟨rfl, rfl⟩, rfl,
    hsteps, rfl, rfl, ?_, fun j hj => ?_, ⟨rfl, rfl, rfl, rfl⟩, ⟨rfl, rfl⟩, rfl, rfl, rfl⟩
  · exact Vector.getElem_setIfInBounds_self _
  · exact byteAt_set_other s.rbuf 0 j Config.sync (by omega)
  · rw [← hhead]
    exact writeFrom_zero_take s.rbuf (frameHead row.2 args) hfit
  · exact writeFrom_zero_other s.rbuf (frameHead row.2 args) hfit j (by omega)

/-- With its right CRC a frame row gives the record of its wire frame (R159). -/
theorem frameRow_givesRecord {row : (List Byte → Byte → Instr) × Byte} (hrow : row ∈ typeRows) (args : List Byte)
    (s : State) (h : Ready s) (hl : args.length ≤ 10) :
    GivesRecord (row.1 args (crc8 (row.2 :: BitVec.ofNat 8 args.length :: args))) row.2 args s
      (classify (wireFrame row.2 args) s.id) := by
  have hread := frameRow_readsFrame hrow args (crc8 (row.2 :: BitVec.ofNat 8 args.length :: args)) s h hl
  rw [frameOutput, if_pos rfl] at hread
  exact hread

/-- The record of a telemetry frame of seven arguments (R180, R194, R197). -/
theorem classify_telemetry (a0 a1 a2 a3 a4 a5 a6 : Byte) (id : Identity) :
    classify (wireFrame 0xFF [a0, a1, a2, a3, a4, a5, a6]) id =
      { plainRecord .telem 0xFF [a0, a1, a2, a3, a4, a5, a6] true with
        src := BitVec.ofNat 16 (a0.toNat * 256 + a1.toNat)
        burst := BitVec.ofNat 16 (a2.toNat * 256 + a3.toNat)
        pktid := BitVec.ofNat 16 (a4.toNat * 256 + a5.toNat)
        rssiRaw := a6
        rssiQ1 := rssiQ1 a6
        dst := id } := by
  have hclass : classOf 255#8 = .telem := by decide
  simp [classify, wireFrame, hclass, wellformed, plainRecord, u16be]

/-- Settles O37: the telemetry row gives the record of its wire frame, whose fields are those of R194. -/
theorem telemetryFieldsAreDecoded : Obligations.TelemetryFieldsAreDecoded := by
  intro s a0 a1 a2 a3 a4 a5 a6 h
  have hrow : (.telemetry, 0xFF) ∈ typeRows := by simp [typeRows]
  have hrec := frameRow_givesRecord hrow [a0, a1, a2, a3, a4, a5, a6] s h (by simp)
  rw [classify_telemetry] at hrec
  exact hrec

end Sys2Proof.Proofs

/-! Proofs of the statements on encodings (30_encoding.md): the decoder and the encoder undo one another, and what a decoded
operation is in the machine. -/

namespace Sys2Proof.Proofs

open Sys2Proof.Machine Sys2Proof.Safety

/-! ### The rows of the tables -/

/-- In a table with one row for each byte, a byte selects its own row (R85). -/
theorem selectRow_eq_some_iff {α : Type} {rows : List (Byte × α)} (hkeys : (rows.map Prod.fst).Nodup) (b : Byte) (x : α) :
    selectRow rows b = some x ↔ (b, x) ∈ rows := by
  induction rows with
  | nil => simp [selectRow]
  | cons row rows ih =>
    obtain ⟨key, y⟩ := row
    obtain ⟨hnew, hrest⟩ := List.nodup_cons.mp hkeys
    by_cases h : key = b
    · subst h
      have hother : (key, x) ∉ rows := fun hm => hnew (List.mem_map.mpr ⟨_, hm, rfl⟩)
      simp [selectRow, hother, eq_comm]
    · have hskip : selectRow ((key, y) :: rows) b = selectRow rows b := by simp [selectRow, h]
      rw [hskip, ih hrest]
      simp [Ne.symm h]

/-- The decoder's CMD rows are those of R72. -/
theorem selectRow_commandRows (b : Byte) (mk : Nibble → Args → Instr) :
    selectRow commandRows b = some mk ↔ ∃ row ∈ commandRowsOf, row.2.1 = b ∧ row.1 = mk := by
  have hrows : commandRows = commandRowsOf.map fun row => (row.2.1, row.1) := rfl
  rw [selectRow_eq_some_iff (by decide), hrows, List.mem_map]
  simp only [Prod.mk.injEq]

/-- The decoder's FRAME_TYPE rows are those of R74. -/
theorem selectRow_frameRows (b : Byte) (mk : List Byte → Byte → Instr) :
    selectRow frameRows b = some mk ↔ (mk, b) ∈ typeRows := by
  have hrows : frameRows = typeRows.map Prod.swap := rfl
  rw [selectRow_eq_some_iff (by decide), hrows, List.mem_map]
  simp

theorem encode_commandRow : ∀ row ∈ commandRowsOf, ∀ argc arg,
    encode (row.1 argc arg) = ⟨.catalog, recordBytes row.2.1 argc arg⟩ := by
  simp [commandRowsOf, encode]

theorem encode_typeRow : ∀ row ∈ typeRows, ∀ args crc,
    encode (row.1 args crc) = ⟨.frame, frameBytes row.2 args crc⟩ := by
  simp [typeRows, ackRows, encode]

theorem wellFormed_commandRow : ∀ row ∈ commandRowsOf, ∀ argc arg, (row.1 argc arg).WellFormed := by
  simp [commandRowsOf, Instr.WellFormed, Instr.wellFormed]

theorem argsFit_iff (args : List Byte) : argsFit args = true ↔ args.length ≤ 10 := decide_eq_true_iff

/-- A frame row is well formed exactly when its arguments fit (R5). -/
theorem wellFormed_typeRow : ∀ row ∈ typeRows, ∀ args crc, (row.1 args crc).WellFormed ↔ args.length ≤ 10 := by
  simp [typeRows, ackRows, Instr.WellFormed, Instr.wellFormed, argsFit_iff]

/-! ### The operand fields -/

theorem wordOfBytes_toNat (hi lo : Byte) : (wordOfBytes hi lo).toNat = hi.toNat * 256 + lo.toNat := by
  have hhi := hi.isLt
  have hlo := lo.isLt
  exact (BitVec.toNat_ofNat _ _).trans (Nat.mod_eq_of_lt (by omega : _ < 2 ^ 16))

/-- A register value is put together from its own two bytes (log 2). -/
theorem wordOfBytes_extract (v : RegWord) : wordOfBytes (v.extractLsb' 8 8) (v.extractLsb' 0 8) = v := by
  have hv : v.toNat < 2 ^ 16 := v.isLt
  apply BitVec.eq_of_toNat_eq
  simp only [wordOfBytes_toNat, BitVec.extractLsb'_toNat, Nat.shiftRight_eq_div_pow]
  omega

theorem extract_wordOfBytes (hi lo : Byte) :
    (wordOfBytes hi lo).extractLsb' 8 8 = hi ∧ (wordOfBytes hi lo).extractLsb' 0 8 = lo := by
  constructor <;> apply BitVec.eq_of_toNat_eq <;>
    simp only [wordOfBytes_toNat, BitVec.extractLsb'_toNat, Nat.shiftRight_eq_div_pow] <;> omega

/-- A count or an index fits its byte's low half (R78, log 2). -/
theorem setWidth_nibble_lt (n : Nibble) : (n.setWidth 8).toNat < 16 := by
  simp
  omega

theorem setWidth_setWidth_nibble (n : Nibble) : (n.setWidth 8).setWidth 4 = n :=
  (BitVec.setWidth_setWidth_of_le n (by decide)).trans (BitVec.setWidth_eq n)

theorem setWidth_setWidth_byte {b : Byte} (h : b.toNat < 16) : (b.setWidth 4).setWidth 8 = b := by
  apply BitVec.eq_of_toNat_eq
  simp
  omega

/-! ### The three layouts of more than one field -/

/-- A CMD record is spelled by its bytes and by no others (R78). -/
theorem decodeRecord_eq_ok_iff (bytes : List Byte) (c : CmdRecord) :
    decodeRecord bytes = .ok c ↔ bytes = recordBytes c.opcode c.argc c.arg := by
  constructor
  · intro h
    match bytes, h with
    | opcode :: argc :: arg, h =>
      rw [decodeRecord] at h
      split at h
      · split at h
        · next _ hargc =>
          cases h
          simp [recordBytes, setWidth_setWidth_byte hargc]
        · cases h
      · cases h
  · rintro rfl
    have hlen : c.arg.toList.length = Config.argBytes := c.arg.length_toList
    simp only [recordBytes, decodeRecord, dif_pos hlen, if_pos (setWidth_nibble_lt c.argc),
      setWidth_setWidth_nibble]
    rfl

/-- The CMD rows are spelled by the records with their opcodes (R72). -/
theorem decodeCatalog_eq_ok_iff (bytes : List Byte) (i : Instr) :
    decodeCatalog bytes = .ok i ↔
      ∃ row ∈ commandRowsOf, ∃ argc arg, i = row.1 argc arg ∧ bytes = recordBytes row.2.1 argc arg := by
  constructor
  · intro h
    rw [decodeCatalog] at h
    split at h
    · cases h
    · next c hc =>
      split at h
      · cases h
      · next mk hmk =>
        cases h
        obtain ⟨row, hrow, hop, rfl⟩ := (selectRow_commandRows c.opcode mk).mp hmk
        exact ⟨row, hrow, c.argc, c.arg, rfl, hop ▸ (decodeRecord_eq_ok_iff bytes c).mp hc⟩
  · rintro ⟨row, hrow, argc, arg, rfl, rfl⟩
    have hrec : decodeRecord (recordBytes row.2.1 argc arg) = .ok ⟨row.2.1, argc, arg⟩ :=
      (decodeRecord_eq_ok_iff _ ⟨row.2.1, argc, arg⟩).mpr rfl
    simp [decodeCatalog, hrec, (selectRow_commandRows row.2.1 row.1).mpr ⟨row, hrow, rfl, rfl⟩]

/-- The bytes after LEN are the arguments and the CRC byte (R70). -/
theorem take_append_getD {rest : List Byte} {n : Nat} (h : rest.length = n + 1) : rest.take n ++ [rest.getD n 0] = rest := by
  rw [List.getD_eq_getElem _ _ (by omega), List.take_append_getElem, ← h, List.take_length]

/-- The FRAME_TYPE rows are spelled by the wire frames with their TYPE and at most ten arguments (R70, R74). -/
theorem decodeFrame_eq_ok_iff (bytes : List Byte) (i : Instr) :
    decodeFrame bytes = .ok i ↔
      ∃ row ∈ typeRows, ∃ args crc, i = row.1 args crc ∧ args.length ≤ 10 ∧ bytes = frameBytes row.2 args crc := by
  constructor
  · intro h
    match bytes, h with
    | marker :: type :: len :: rest, h =>
      simp only [decodeFrame] at h
      split at h
      · next hsync =>
        split at h
        · cases h
        · next mk hmk =>
          split at h
          · next hlen =>
            split at h
            · next hrest =>
              cases h
              have hargs : (rest.take len.toNat).length = len.toNat := by simp; omega
              refine ⟨(mk, type), (selectRow_frameRows type mk).mp hmk, _, _, rfl, hargs.trans_le hlen, ?_⟩
              rw [frameBytes, frameHead, hargs, BitVec.ofNat_toNat, BitVec.setWidth_eq, hsync, List.cons_append,
                List.cons_append, List.cons_append, take_append_getD hrest]
            · cases h
          · cases h
      · cases h
  · rintro ⟨⟨mk, type⟩, hrow, args, crc, rfl, hargs, rfl⟩
    have hlen : (BitVec.ofNat 8 args.length).toNat = args.length := by simp; omega
    have hfit : args.length ≤ Config.maxLen := hargs
    simp [decodeFrame, frameBytes, frameHead, (selectRow_frameRows type mk).mpr hrow, hlen, hfit]

/-! ### Decoding and encoding -/

theorem decode_cmd (bytes : List Byte) : decode ⟨.cmd, bytes⟩ = (decodeRecord bytes).map .cmd := rfl

/-- Settles O54: kind by kind of instruction, the layout of its format is read back field by field. -/
theorem decodeOfEncode : Obligations.DecodeOfEncode := by
  intro i hwf
  rcases instr_kinds i with ⟨b, rest, hi⟩ | ⟨c, hi⟩ | rfl | ⟨j, rfl⟩ | ⟨j, v, rfl⟩ | rfl
  · cases hi with
    | rxByte b => rfl
    | sync => rfl
    | frame row hrow args crc =>
      rw [encode_typeRow row hrow]
      exact (decodeFrame_eq_ok_iff _ _).mpr
        ⟨row, hrow, args, crc, rfl, (wellFormed_typeRow row hrow args crc).mp hwf, rfl⟩
  · cases hi with
    | cmd c =>
      rw [encode, decode_cmd, (decodeRecord_eq_ok_iff _ c).mpr rfl]
      rfl
    | row row hrow argc arg =>
      rw [encode_commandRow row hrow]
      exact (decodeCatalog_eq_ok_iff _ _).mpr ⟨row, hrow, argc, arg, rfl, rfl⟩
  · rfl
  · simp only [encode, decode, if_pos (setWidth_nibble_lt j), setWidth_setWidth_nibble]
  · simp only [encode, decode, if_pos (setWidth_nibble_lt j), setWidth_setWidth_nibble, wordOfBytes_extract]
  · rfl

/-- Settles O55: format by format, what decodes has the layout of the instruction it spells. -/
theorem encodeOfDecode : Obligations.EncodeOfDecode := by
  rintro ⟨fmt, bytes⟩ i h
  cases fmt with
  | rxByte =>
    match bytes, h with
    | [b], h =>
      cases h
      exact ⟨rfl, rfl⟩
  | cmd =>
    rw [decode_cmd] at h
    rcases hc : decodeRecord bytes with r | c <;> rw [hc] at h <;> cases h
    rw [(decodeRecord_eq_ok_iff bytes c).mp hc]
    exact ⟨rfl, rfl⟩
  | txTake =>
    match bytes, h with
    | [], h =>
      cases h
      exact ⟨rfl, rfl⟩
  | regRead =>
    match bytes, h with
    | [j], h =>
      simp only [decode] at h
      split at h <;> cases h
      next hj => exact ⟨rfl, by rw [encode, setWidth_setWidth_byte hj]⟩
  | regWrite =>
    match bytes, h with
    | [j, hi, lo], h =>
      simp only [decode] at h
      split at h <;> cases h
      next hj =>
        obtain ⟨hhi, hlo⟩ := extract_wordOfBytes hi lo
        exact ⟨rfl, by rw [encode, setWidth_setWidth_byte hj, hhi, hlo]⟩
  | reset =>
    match bytes, h with
    | [], h =>
      cases h
      exact ⟨rfl, rfl⟩
  | catalog =>
    obtain ⟨row, hrow, argc, arg, rfl, rfl⟩ := (decodeCatalog_eq_ok_iff bytes i).mp h
    exact ⟨wellFormed_commandRow row hrow argc arg, encode_commandRow row hrow argc arg⟩
  | marker =>
    match bytes, h with
    | [b], h =>
      simp only [decode] at h
      split at h <;> cases h
      next hb => exact ⟨rfl, by rw [hb]; rfl⟩
  | frame =>
    obtain ⟨row, hrow, args, crc, rfl, hargs, rfl⟩ := (decodeFrame_eq_ok_iff bytes i).mp h
    exact ⟨(wellFormed_typeRow row hrow args crc).mpr hargs, encode_typeRow row hrow args crc⟩

/-- Settles O56: six of the transactions are encodings, and the three others fail the check that their rejection names. -/
theorem writtenOutWordsDecode : Obligations.WrittenOutWordsDecode :=
  ⟨decodeOfEncode (.rxByte 0x80) rfl,
    decodeOfEncode (.cmd ⟨0xF0, 0, #v[0, 0, 0, 0, 0, 0, 0, 0, 0, 0]⟩) rfl,
    decodeOfEncode (.setid 2 #v[0x00, 0x05, 0, 0, 0, 0, 0, 0, 0, 0]) rfl,
    decodeOfEncode .sync rfl,
    decodeOfEncode (.ackSettxpow [0x03] 0x0F) rfl,
    decodeOfEncode (.boot [] 0x99) rfl, rfl, rfl, rfl⟩

/-! ### The catalog and the TYPE set -/

/-- Settles O9: the catalog byte by byte, and `recognised` as R73 writes it. -/
theorem catalogAndTypeSet : Obligations.CatalogAndTypeSet :=
  ⟨by decide, recognised_iff, fun _ b _ => recognised_iff b⟩

/-! ### Commands and TX_TAKE -/

/-- Settles O41: a named row and the operation it spells are one `rxChunk` or one `cmdStep`. -/
theorem namedRowsAreHostOperations : Obligations.NamedRowsAreHostOperations := by
  refine fun s => ⟨?_, fun row hrow argc arg => ?_⟩
  · exact (exec_takesByte .sync s).trans (exec_takesByte (.rxByte 0x80) s).symm
  · exact (exec_givesCommand (.row row hrow argc arg) s).trans (exec_givesCommand (.cmd ⟨row.2.1, argc, arg⟩) s).symm

/-- With R30 every command has a next state: a busy encoder leaves the record held, an idle one takes it (R132, I6). -/
theorem exec_givesCommand_next {i : Instr} {c : CmdRecord} (h : GivesCommand i c) {s : State} (ho : EncoderInvariant s) :
    exec i s = .next (if s.ebusy then s.clearOut.hold c else takeCommand c s.clearOut) := by
  have hok : s.clearOut.encoderOk = true := (encoderOk_iff s).mpr ho
  rw [exec_givesCommand h]
  rcases cmdStep_cases c s.clearOut with ⟨hno, _⟩ | ⟨_, hb, e⟩ | ⟨_, hb, e⟩
  · cases hok.symm.trans hno
  · rw [e, if_pos (State.clearOut_ebusy s ▸ hb)]
  · rw [e, if_neg (by simpa using hb)]

/-- A command's record waits while the encoder is busy, however the command is spelled (R132, I6). -/
theorem givesCommand_waitsWhileBusy {i : Instr} {c : CmdRecord} (h : GivesCommand i c) : WaitsWhileBusy i c := by
  intro s ho hb
  have e := exec_givesCommand_next h ho
  rw [if_pos hb] at e
  exact ⟨_, e, rfl, blockSame_clearOut s, rfl⟩

/-- Settles O13: CMD and the nine CMD rows all give a command. -/
theorem commandsWaitWhileBusy : Obligations.CommandsWaitWhileBusy :=
  ⟨fun c => givesCommand_waitsWhileBusy (.cmd c),
    fun row hrow argc arg => givesCommand_waitsWhileBusy (.row row hrow argc arg)⟩

theorem exec_txTake_idle {s : State} (ho : EncoderInvariant s) (hb : s.ebusy = false) :
    exec .txTake s = .fault .txTakeNotEnabled := by
  have hok : s.clearOut.encoderOk = true := (encoderOk_iff s).mpr ho
  rcases txStep_cases s.clearOut with ⟨h, _⟩ | ⟨_, _, e⟩ | ⟨_, h, _⟩
  · cases hok.symm.trans h
  · exact e
  · cases hb.symm.trans h

/-- Settles O18: a busy encoder gives a byte, an idle one stops. -/
theorem txTakeIdleHasNoStep : Obligations.TxTakeIdleHasNoStep := by
  refine fun s ho => ⟨fun h => ?_, exec_txTake_idle ho⟩
  rcases hb : s.ebusy with _ | _
  · rfl
  · cases (exec_txTake_busy s ((encoderOk_iff s).mpr ho) hb).symm.trans h

/-- With R26 every row that takes a byte has a next state (I4). -/
theorem exec_takesByte_next {i : Instr} {b : Byte} {rest : List Byte} (h : TakesByte i b rest) {s : State}
    (ho : ReaderInvariant s) : ∃ t, exec i s = .next t := by
  rw [exec_takesByte h]
  rcases rxChunk_cases b rest s.clearOut with ⟨t, _, e⟩ | ⟨hfault, _⟩
  · exact ⟨_, e⟩
  · exact absurd ho ((rxStep_fault_iff b s.clearOut).mp hfault).2

/-- Settles O49: kind by kind of instruction; only TX_TAKE needs more than the invariants. -/
theorem onlyIdleTxTakeStops : Obligations.OnlyIdleTxTakeStops := by
  intro s i ⟨hr, ho, _⟩
  rcases instr_kinds i with ⟨b, rest, hi⟩ | ⟨c, hi⟩ | rfl | ⟨j, rfl⟩ | ⟨j, v, rfl⟩ | rfl
  · exact .inl (exec_takesByte_next hi hr)
  · exact .inl ⟨_, exec_givesCommand_next hi ho⟩
  · rcases hb : s.ebusy with _ | _
    · exact .inr ⟨rfl, rfl, exec_txTake_idle ho hb⟩
    · exact .inl ⟨_, exec_txTake_busy s ((encoderOk_iff s).mpr ho) hb⟩
  · exact .inl ⟨_, exec_regRead j s⟩
  · exact .inl ⟨_, exec_regWrite j v s⟩
  · exact .inl ⟨_, rfl⟩

/-! ### The BOOT row -/

/-- The record of a wire frame whose fields R79 leaves to class and `wf` are all zero: a boot frame, or a misshapen one
(R180, R192, R193, R195). -/
theorem classify_plain (ty : Byte) (args : List Byte) (id : Identity) (hl : args.length ≤ 10)
    (h : classOf ty = .boot ∨ wellformed (classOf ty) args.length = false) :
    classify (wireFrame ty args) id = plainRecord (classOf ty) ty args (wellformed (classOf ty) args.length) := by
  have hm : args.length % 256 = args.length := Nat.mod_eq_of_lt (by omega)
  rcases h with h | h <;> simp [classify, wireFrame, plainRecord, hm, h, Nat.add_comm 3]

/-- Settles O36: the BOOT row gives the record of its wire frame, and a boot frame is well formed at every length. -/
theorem bootFramesPassArguments : Obligations.BootFramesPassArguments := by
  intro s args h hl
  have hrow : (.boot, 0xF0) ∈ typeRows := by simp [typeRows]
  have hclass : classOf 0xF0 = .boot := by decide
  have hrec := frameRow_givesRecord hrow args s h hl
  rw [classify_plain 0xF0 args s.id hl (.inl hclass), hclass] at hrec
  exact hrec

/-! ### A step -/

theorem fetchPresented_op (s : State) (t : Transaction) (ps : List Presented) (h : s.pending = .op t :: ps) :
    s.fetchPresented = (some (decode t), { s with pending := ps }) := by
  simp [State.fetchPresented, h]

theorem fetchPresented_cycle (s : State) (c : Machine.Cycle) (ps : List Presented) (i : Instr) (is : List Instr)
    (h : s.pending = .cycle c :: ps) (hc : c.serial s.ebusy = i :: is) :
    s.fetchPresented = (some (.ok i), { s with begun := is, pending := ps }) := by
  simp [State.fetchPresented, h, hc]

theorem step_of_fetch_error {s u : State} {why : Reject} (h : s.fetch = (some (.error why), u)) :
    step s = .refused (.undecodable why) := by
  simp [step, h]

/-- Settles O57: what `fetch` takes in each of the cases, and the step of it. -/
theorem stepRunsDecodedOperation : Obligations.StepRunsDecodedOperation := by
  refine ⟨step_begun, fun s hb hw => ⟨fun t ps hp => ?_, fun c ps i is hp hc => ?_⟩⟩
  · have hf := (fetch_presented s hb hw).trans (fetchPresented_op s t ps hp)
    exact ⟨fun i hi => step_of_fetch_ok (by rw [hf, hi]), fun why hwhy => step_of_fetch_error (by rw [hf, hwhy])⟩
  · exact step_of_fetch_ok ((fetch_presented s hb hw).trans (fetchPresented_cycle s c ps i is hp hc))

end Sys2Proof.Proofs

/-! Proofs of the statements on the CRC unit (40_crc.md): the incremental check and `validate` agree on every frame, and a byte changed
under the CRC changes it. -/

namespace Sys2Proof.Proofs

open Sys2Proof.Machine Sys2Proof.Safety

/-- Settles O21: the CRC register is run bit by bit over fixed bytes (R100). -/
theorem crcCheckValues : Obligations.CrcCheckValues := by
  simp [Obligations.CrcCheckValues, crc8_eq_foldl, crc8Step, crcShifts, crcShift, Config.crcPolyR]

/-! ### The incremental check -/

/-- A frame of two bytes or more is SYNC, the body the CRC covers and the CRC byte (R102). -/
theorem exists_sync_body_crc {f : List Byte} (hf : 2 ≤ f.length) : ∃ m body b, f = m :: body ++ [b] := by
  match f, hf with
  | m :: rest, hf =>
    have hne : rest ≠ [] := List.ne_nil_of_length_pos (Nat.lt_of_succ_lt_succ hf)
    exact ⟨m, rest.dropLast, rest.getLast hne, by rw [List.cons_append, List.dropLast_append_getLast hne]⟩

/-- R104: both checks ask for the CRC byte that is the CRC of the body. -/
theorem validate_iff_validateIncremental {f : List Byte} (hf : 2 ≤ f.length) :
    validate f = true ↔ validateIncremental f = true := by
  obtain ⟨m, body, b, rfl⟩ := exists_sync_body_crc hf
  rw [validate_iff, ← crc8_append_eq_zero_iff]
  simp [validateIncremental]

theorem crc8_zero_cons (s : List Byte) : crc8 (0 :: s) = crc8 s := by
  have hstep : crc8Step 0 0 = 0 := (crc8Step_eq_zero_iff 0 0).mpr rfl
  rw [crc8_eq_foldl, crc8_eq_foldl, List.foldl_cons, hstep]

/-- Settles O22: the CRC of TYPE to the CRC byte is zero exactly when that byte is the CRC of the rest, and a zero byte leaves a zero
CRC as it is. -/
theorem incrementalCheckAgrees : Obligations.IncrementalCheckAgrees :=
  ⟨fun _ hf => validate_iff_validateIncremental (Nat.le_trans (by decide) hf),
    fun s => (crc8_append_eq_zero_iff s (crc8 s)).mpr rfl, crc8_zero_cons⟩

/-! ### A changed byte -/

/-- With the bytes before and after it fixed, a byte is determined by the CRC: each step is a bijection (R100). -/
theorem crc8_append_cons_inj (p q : List Byte) (a b : Byte) : crc8 (p ++ a :: q) = crc8 (p ++ b :: q) ↔ a = b := by
  simp only [crc8_eq_foldl, List.foldl_append, List.foldl_cons]
  rw [(foldl_crc8Step_injective q).eq_iff, crc8Step_eq_iff, BitVec.xor_right_inj]

theorem crc8_set_eq_iff (s : List Byte) (i : Nat) (hi : i < s.length) (b : Byte) :
    crc8 (s.set i b) = crc8 s ↔ b = s[i] := by
  have hsplit : s.take i ++ s[i] :: s.drop (i + 1) = s := by simp
  have hbyte := crc8_append_cons_inj (s.take i) (s.drop (i + 1)) b s[i]
  rw [hsplit] at hbyte
  rwa [List.set_eq_take_append_cons_drop, if_pos hi]

/-- R105, for a whole byte: a valid frame with a byte from TYPE to CRC replaced is no longer valid unless that byte stays the same. -/
theorem validate_set_iff {f : List Byte} (hf : 2 ≤ f.length) (hv : validate f = true) {i : Nat} (hi : i < f.length)
    (h1 : 1 ≤ i) (b : Byte) : validate (f.set i b) = true ↔ b = f[i] := by
  match f, i, h1 with
  | m :: rest, k + 1, _ =>
    have hzero : crc8 rest = 0 := by simpa [validateIncremental] using (validate_iff_validateIncremental hf).mp hv
    have hset := crc8_set_eq_iff rest k (Nat.lt_of_succ_lt_succ hi) b
    rw [hzero] at hset
    rw [validate_iff_validateIncremental (by simpa using hf)]
    simpa [validateIncremental] using hset

theorem xor_bit_ne (b : Byte) {j : Nat} (hj : j < 8) : b ^^^ (1#8 <<< j) ≠ b := by
  have hbit : ∀ j < 8, 1#8 <<< j ≠ 0 := by decide
  intro h
  exact hbit j hj (by simpa using h)

/-- Settles O23: a toggled bit changes its byte, and a valid frame with one byte changed is not valid. -/
theorem singleBitErrorsAreRejected : Obligations.SingleBitErrorsAreRejected := by
  intro f i j hi hf hv h1 hj
  rw [← Bool.not_eq_true, validate_set_iff (by omega) hv hi h1]
  exact xor_bit_ne f[i] hj

end Sys2Proof.Proofs

/-! Proofs of the statements on the encoder (41_encoder.md): an encoded command on RX, what an idle encoder does with a record,
TX_TAKE, what the encoder sees of a state, and what every instruction does to `ebusy` and puts out. -/

namespace Sys2Proof.Proofs

open Sys2Proof.Machine Sys2Proof.Safety

/-! ### An encoded command on RX -/

theorem catalog_of_argc {op : Byte} {k : Nibble} (h : catalogArgc op = some k) : catalog op = true := by
  simp [catalog, h]

/-- The catalog's opcodes are recognised TYPEs (R73). -/
theorem recognised_of_catalog {op : Byte} (h : catalog op = true) : recognised op = true := by
  simp [recognised, h]

/-- The catalog's opcodes are TYPEs of acknowledgment frames (R74, R180). -/
theorem classOf_of_catalog {op : Byte} (h : catalog op = true) : classOf op = .ack := by
  simp [classOf, h]

/-- The commands of one argument (R127, R128). -/
theorem catalogArgc_eq_one_iff (op : Byte) : catalogArgc op = some 1 ↔ op = 0xC6 ∨ op = 0xC7 := by
  revert op
  decide

/-- The fields of a wire frame's record that every class has (R79, R180, R181). -/
theorem classify_common (ty : Byte) (args : List Byte) (id : Identity) (hl : args.length ≤ 10) :
    (classify (wireFrame ty args) id).cls = classOf ty ∧ (classify (wireFrame ty args) id).type = ty ∧
      (classify (wireFrame ty args) id).len = BitVec.ofNat 4 args.length ∧
      (classify (wireFrame ty args) id).args = paddedArgs args ∧
      (classify (wireFrame ty args) id).wf = wellformed (classOf ty) args.length := by
  have hm : args.length % 256 = args.length := Nat.mod_eq_of_lt (by omega)
  simp [classify, wireFrame, hm]

/-- A record's argument field begins with the arguments (R79). -/
theorem take_paddedArgs (args : List Byte) (hl : args.length ≤ 10) : (paddedArgs args).toList.take args.length = args :=
  writeFrom_zero_take _ args hl

/-- A valid frame on a ready reader gives its record on the last byte, and nothing before it; the reader is ready again (R159). -/
theorem observe_wireFrame (ty : Byte) (args : List Byte) (s : State) (h : Ready s) (ht : recognised ty = true)
    (hl : args.length ≤ 10) :
    ∃ t, observe (rxRun (wireFrame ty args)) s =
        some (t, List.replicate (args.length + 3) [] ++ [[.frame (classify (wireFrame ty args) s.id)]]) ∧
      Ready t ∧ EncoderSame s t ∧ RegistersSame s t := by
  have ⟨hen, hrs, _⟩ := h
  have hrun := observe_frame ty args (crc8 (ty :: BitVec.ofNat 8 args.length :: args)) s h ht hl
  rw [readBytes_frame ty args _ s.clearOut hrs ht hl, if_pos rfl] at hrun
  exact ⟨_, hrun, ⟨hen, rfl, rfl⟩, ⟨rfl, rfl, rfl, rfl⟩, rfl, rfl⟩

/-- Settles O50: the frame of a command is a valid frame of an acknowledgment TYPE, and its record holds what the frame holds. -/
theorem encodedCommandReadsBack : Obligations.EncodedCommandReadsBack := by
  intro s c hready hc
  have hcat := catalog_of_argc hc
  have h7 := argc_le_seven hc
  have hlen : (usedArgs c).length = c.argc.toNat := used_length c (by omega)
  have hfit : (usedArgs c).length ≤ 10 := by omega
  obtain ⟨t, hrun, ht, -, -⟩ := observe_wireFrame c.opcode (usedArgs c) s hready (recognised_of_catalog hcat) hfit
  obtain ⟨hcls, htype, hrlen, hargs, hwf⟩ := classify_common c.opcode (usedArgs c) s.id hfit
  have hpad := take_paddedArgs (usedArgs c) hfit
  rw [← hargs, hlen] at hpad
  rw [hlen] at hrun hrlen hwf
  rw [classOf_of_catalog hcat] at hcls hwf
  refine ⟨t, _, hrun, hcls, htype, hrlen.trans (by simp), hpad, ?_, ht⟩
  have hone : c.argc = 1 ↔ c.argc.toNat = 1 := BitVec.toNat_eq
  rw [hwf, ← catalogArgc_eq_one_iff, hc, Option.some_inj, hone]
  exact beq_iff_eq

/-! ### An idle encoder takes a record -/

/-- An idle encoder takes the record, however the command is spelled (R132; log 8). -/
theorem exec_givesCommand_idle {i : Instr} {c : CmdRecord} (h : GivesCommand i c) {s : State} (hs : Idle s) :
    exec i s = .next (takeCommand c s.clearOut) := by
  have ⟨hb, _⟩ := hs
  rw [exec_givesCommand_next h ((encoderOk_iff s).mp (encoderOk_of_idle hs)), if_neg (by simp [hb])]

/-- A record with its opcode's count is loaded, however the command is spelled: `tbuf` holds its wire frame, and only the encoder's
fields change (R120, R132). -/
theorem givesCommand_loads {i : Instr} {c : CmdRecord} (h : GivesCommand i c) (hc : catalogArgc c.opcode = some c.argc)
    {s : State} (hs : Idle s) :
    ∃ t, exec i s = .next t ∧ t.out = [] ∧ t.ebusy = true ∧ t.tlen.toNat = c.argc.toNat + 4 ∧ t.tidx = 0 ∧
      t.tbuf.toList.take (c.argc.toNat + 4) = wireFrame c.opcode (c.arg.toList.take c.argc.toNat) ∧
      (∀ j, c.argc.toNat + 4 ≤ j → byteAt t.tbuf j = byteAt s.tbuf j) ∧ ReaderSame s t ∧ RegistersSame s t := by
  have h7 := argc_le_seven hc
  have hlen := commandFrame_used c h7
  have hfit : (commandFrame c.opcode c.argc (usedArgs c)).length ≤ Config.tbufBytes :=
    hlen.trans_le (by omega : c.argc.toNat + 4 ≤ 11)
  refine ⟨_, (exec_givesCommand_idle h hs).trans (congrArg _ (takeCommand_accepted s.clearOut hc)), rfl, rfl, ?_, rfl, ?_,
    fun j hj => writeFrom_zero_other s.tbuf _ hfit j (hlen.trans_le hj), ⟨rfl, rfl, rfl⟩, rfl, rfl⟩
  · rw [State.loadFrame_tlen, hlen, BitVec.toNat_ofNat]
    omega
  · rw [← commandFrame_eq_wireFrame hc, ← hlen]
    exact writeFrom_zero_take s.tbuf _ hfit

/-- Settles O10: CMD gives the command whose record it holds. -/
theorem cmdLoadsCatalogFrame : Obligations.CmdLoadsCatalogFrame :=
  fun _ c hs hc => givesCommand_loads (.cmd c) hc hs

/-- The nine CMD rows have the catalog's opcodes and counts (R72). -/
theorem catalogArgc_commandRow : ∀ row ∈ commandRowsOf,
    catalogArgc row.2.1 = some (BitVec.ofNat 4 row.2.2) ∧ (BitVec.ofNat 4 row.2.2).toNat = row.2.2 := by
  simp only [commandRowsOf, List.forall_mem_cons]
  decide

/-- Each of the nine CMD rows loads its frame (R121 to R129). -/
theorem commandRow_loads : ∀ row ∈ commandRowsOf, LoadsFrame row.1 row.2.1 row.2.2 := by
  intro row hrow s arg hs
  obtain ⟨hc, hn⟩ := catalogArgc_commandRow row hrow
  have hload := givesCommand_loads (.row row hrow (BitVec.ofNat 4 row.2.2) arg) hc hs
  simpa only [hn] using hload

/-- Settles O14: four of the CMD rows, and the CRC bytes of the frames listed. -/
theorem twoArgumentCommandsLoad : Obligations.TwoArgumentCommandsLoad :=
  ⟨commandRow_loads (.setid, 0xC0, 2) (by simp [commandRowsOf]), commandRow_loads (.cmpid, 0xC1, 2) (by simp [commandRowsOf]),
    commandRow_loads (.setchanbw, 0xC4, 2) (by simp [commandRowsOf]),
    commandRow_loads (.setdrate, 0xC5, 2) (by simp [commandRowsOf]),
    by simp [wireFrame, crc8_eq_foldl, crc8Step, crcShifts, crcShift, Config.crcPolyR]⟩

/-- Settles O15: two of the CMD rows, the CRC bytes of the frames listed, and the acknowledgment rows' own encoding. -/
theorem oneArgumentCommandsLoad : Obligations.OneArgumentCommandsLoad := by
  refine ⟨commandRow_loads (.setmod, 0xC6, 1) (by simp [commandRowsOf]),
    commandRow_loads (.settxpow, 0xC7, 1) (by simp [commandRowsOf]), ?_, ?_, ?_, ?_, ?_, ?_, fun _ => ⟨rfl, rfl⟩⟩
  all_goals simp [wireFrame, crc8_eq_foldl, crc8Step, crcShifts, crcShift, Config.crcPolyR]

/-- Settles O16: three of the CMD rows, and the CRC bytes of the frames listed. -/
theorem otherCommandsLoad : Obligations.OtherCommandsLoad :=
  ⟨commandRow_loads (.resetrx, 0xC2, 0) (by simp [commandRowsOf]), commandRow_loads (.setfreq, 0xC3, 3) (by simp [commandRowsOf]),
    commandRow_loads (.send, 0xC8, 7) (by simp [commandRowsOf]),
    by simp [wireFrame, crc8_eq_foldl, crc8Step, crcShifts, crcShift, Config.crcPolyR]⟩

/-! ### An idle encoder rejects a record -/

theorem takeCommand_badOpcode {c : CmdRecord} (s : State) (h : catalogArgc c.opcode = none) :
    takeCommand c s = s.emit (.encevt ⟨evEncBadOpcode, c.opcode, c.argc.setWidth 8⟩) := by
  simp [takeCommand, h]

theorem takeCommand_badArgc {c : CmdRecord} {k : Nibble} (s : State) (h : catalogArgc c.opcode = some k)
    (hk : c.argc ≠ k) : takeCommand c s = s.emit (.encevt ⟨evEncBadArgc, c.opcode, c.argc.setWidth 8⟩) := by
  simp [takeCommand, h, hk]

/-- A record that an idle encoder reports is its one output and changes nothing, however the command is spelled (R130, R131). -/
theorem givesCommand_rejects {i : Instr} {c : CmdRecord} (h : GivesCommand i c) {s : State} (hs : Idle s) {e : Event}
    (he : takeCommand c s.clearOut = s.clearOut.emit (.encevt e)) :
    ∃ t, exec i s = .next t ∧ t.out = [.encevt e] ∧ BlockSame s t :=
  ⟨_, (exec_givesCommand_idle h hs).trans (congrArg _ he), rfl, blockSame_clearOut s⟩

/-- The catalog is C0 to C8 (R72). -/
theorem catalogArgc_eq_none_iff (op : Byte) : catalogArgc op = none ↔ op.toNat < 0xC0 ∨ 0xC8 < op.toNat := by
  revert op
  decide

/-- Settles O11: what is below C0 or above C8 is outside the catalog. -/
theorem cmdRejectsUnknownOpcode : Obligations.CmdRejectsUnknownOpcode :=
  fun _ c hs hop => givesCommand_rejects (.cmd c) hs (takeCommand_badOpcode _ ((catalogArgc_eq_none_iff c.opcode).mpr hop))

/-- Settles O12: CMD and the nine CMD rows all give a command, and the rows' counts are the catalog's. -/
theorem cmdRejectsWrongCount : Obligations.CmdRejectsWrongCount := by
  refine ⟨fun s c k hs hc hk => givesCommand_rejects (.cmd c) hs (takeCommand_badArgc _ hc hk),
    fun row hrow s argc arg hs hk => ?_, fun s c hs hc => givesCommand_rejects (.cmd c) hs (takeCommand_badOpcode _ hc)⟩
  obtain ⟨hc, hn⟩ := catalogArgc_commandRow row hrow
  have hne : argc ≠ BitVec.ofNat 4 row.2.2 := fun h => hk ((congrArg BitVec.toNat h).trans hn)
  exact givesCommand_rejects (.row row hrow argc arg) hs (takeCommand_badArgc _ hc hne)

/-! ### TX_TAKE -/

/-- Settles O17: with R30 `tidx` is inside `tbuf`, and the byte taken is the frame's last one or not. -/
theorem txTakeGivesNextByte : Obligations.TxTakeGivesNextByte := by
  intro s ho hb
  have hok := (encoderOk_iff s).mpr ho
  obtain ⟨hlt, hle⟩ := tidx_lt_tlen_le hok hb
  have hin : s.tidx.toNat < Config.tbufBytes := (by omega : s.tidx.toNat < 11)
  obtain ⟨hrs, hrbuf, hrcnt, hen, hid, _, _, htbuf, hout, _⟩ := takeByte_frame s.clearOut
  have hbyte : byteAt s.tbuf s.tidx.toNat = s.tbuf[s.tidx.toNat] := byteAt_eq_getElem s.tbuf _ hin
  refine ⟨_, exec_txTake_busy s hok hb, ⟨_, Vector.getElem?_eq_getElem hin, ?_⟩, htbuf, ⟨hrs, hrbuf, hrcnt⟩, ⟨hen, hid⟩,
    fun hlast => ?_, fun hmore => ?_⟩
  · rw [← hbyte]
    exact hout
  · rw [takeByte_last s.clearOut hlast]
    exact ⟨rfl, rfl, rfl⟩
  · rw [takeByte_more s.clearOut hmore]
    refine ⟨hb, ?_, rfl⟩
    have hm : (s.tidx.toNat + 1) % 16 = s.tidx.toNat + 1 := by omega
    simpa using hm

/-! ### What the encoder sees -/

/-- A state as the encoder sees it: its own fields and the outputs, all else as at reset. -/
def encoderView (s : State) : State :=
  { State.reset with ebusy := s.ebusy, tbuf := s.tbuf, tlen := s.tlen, tidx := s.tidx, out := s.out }

theorem encoderView_eq_iff (s t : State) : encoderView s = encoderView t ↔ EncoderSame s t ∧ s.out = t.out := by
  simp only [encoderView, EncoderSame, State.mk.injEq]
  grind

/-- A record read by an idle encoder concerns what the encoder sees, and nothing else (R134). -/
theorem takeCommand_encoderView (c : CmdRecord) (s : State) :
    takeCommand c (encoderView s) = encoderView (takeCommand c s) := by
  rcases hk : catalogArgc c.opcode with _ | k
  · simp only [takeCommand, hk]
    rfl
  · simp only [takeCommand, hk, apply_ite encoderView]
    rfl

/-- TX_TAKE reads and writes what the encoder sees, and nothing else (R134). -/
theorem takeByte_encoderView (s : State) : takeByte (encoderView s) = encoderView (takeByte s) := by
  simp only [takeByte, apply_ite encoderView]
  rfl

/-- Two answers that the encoder cannot tell apart: next states that look the same to it, or the same fault. -/
def EncoderAgrees (o p : Host.Outcome State Fault Refusal) : Prop :=
  (∀ u, o = .next u → ∃ v, p = .next v ∧ encoderView u = encoderView v) ∧ ∀ r, o = .fault r → p = .fault r

theorem encoderAgrees_next {u v : State} (h : encoderView u = encoderView v) : EncoderAgrees (.next u) (.next v) :=
  ⟨fun _ hu => ⟨v, rfl, by cases hu; exact h⟩, nofun⟩

theorem encoderAgrees_fault (r : Fault) : EncoderAgrees (.fault r) (.fault r) := ⟨nofun, fun _ h => h⟩

/-- Two states that look the same to the encoder answer a record alike. -/
theorem cmdStep_encoderView {s t : State} (c : CmdRecord) (h : encoderView s = encoderView t) :
    EncoderAgrees (cmdStep c s) (cmdStep c t) := by
  have hok : s.encoderOk = t.encoderOk := (congrArg State.encoderOk h :)
  have hbusy : s.ebusy = t.ebusy := (congrArg State.ebusy h :)
  have htake : encoderView (takeCommand c s) = encoderView (takeCommand c t) := by
    rw [← takeCommand_encoderView, h, takeCommand_encoderView]
  rw [cmdStep, cmdStep, hok, hbusy]
  split
  · split
    · exact encoderAgrees_next h
    · exact encoderAgrees_next htake
  · exact encoderAgrees_fault _

/-- Two states that look the same to the encoder answer TX_TAKE alike. -/
theorem txStep_encoderView {s t : State} (h : encoderView s = encoderView t) : EncoderAgrees (txStep s) (txStep t) := by
  have hok : s.encoderOk = t.encoderOk := (congrArg State.encoderOk h :)
  have hbusy : s.ebusy = t.ebusy := (congrArg State.ebusy h :)
  have htake : encoderView (takeByte s) = encoderView (takeByte t) := by
    rw [← takeByte_encoderView, h, takeByte_encoderView]
  rw [txStep, txStep, hok, hbusy]
  split
  · split
    · exact encoderAgrees_next htake
    · exact encoderAgrees_fault _
  · exact encoderAgrees_fault _

/-- Settles O20: the two states look the same to the encoder once the last step's outputs are gone. -/
theorem encoderIgnoresReaderAndRegisters : Obligations.EncoderIgnoresReaderAndRegisters := by
  intro s t i henc hi
  have hview : encoderView s.clearOut = encoderView t.clearOut := (encoderView_eq_iff _ _).mpr ⟨henc, rfl⟩
  have hagrees : EncoderAgrees (exec i s) (exec i t) := by
    rcases hi with rfl | ⟨c, rfl⟩
    · exact txStep_encoderView hview
    · exact cmdStep_encoderView c hview
  obtain ⟨hnext, hfault⟩ := hagrees
  refine ⟨fun u hu => ?_, hfault⟩
  obtain ⟨v, hv, huv⟩ := hnext u hu
  exact ⟨v, hv, (encoderView_eq_iff u v).mp huv⟩

/-! ### What lifts the hold -/

/-- A register write leaves the encoder alone (R211). -/
theorem writeRegister_encoder (j : Nibble) (v : RegWord) (s : State) : EncoderSame s (s.writeRegister j v) := by
  rcases writeRegister_cases j v s with ⟨_, _, e⟩ | ⟨_, _, e⟩ | ⟨_, e⟩ | ⟨_, e⟩ <;> rw [e] <;> exact ⟨rfl, rfl, rfl, rfl⟩

/-- Settles O47: every other way to a next state leaves `ebusy` set, or starts from an idle encoder. -/
theorem busyIsLiftedOnlyByTakeOrReset : Obligations.BusyIsLiftedOnlyByTakeOrReset := by
  intro i s t h hb hidle
  have kept : t.ebusy ≠ s.ebusy := by simp [hb, hidle]
  cases exec_next h with
  | dropped => exact absurd rfl kept
  | @read _ _ b rest =>
    obtain ⟨hebusy, _⟩ := readByte_frame b (s.clearOut.beginOps (rxRun rest))
    exact absurd hebusy kept
  | held => exact absurd rfl kept
  | taken _ _ hno => cases hb.symm.trans hno
  | sent =>
    refine .inl ⟨rfl, by_contra fun hmore => kept ?_⟩
    rw [takeByte_more s.clearOut hmore]
    rfl
  | regRead => exact absurd rfl kept
  | regWrite j v =>
    obtain ⟨hebusy, _⟩ := writeRegister_encoder j v s.clearOut
    exact absurd hebusy kept
  | reset => exact .inr rfl

/-! ### What each operation puts out -/

theorem writeRegister_out (j : Nibble) (v : RegWord) (s : State) : (s.writeRegister j v).out = s.out := by
  rcases writeRegister_cases j v s with ⟨_, _, e⟩ | ⟨_, _, e⟩ | ⟨_, e⟩ | ⟨_, e⟩ <;> exact (congrArg State.out e :)

/-- A record gives no output but the event that rejects it (R130 to R132). -/
theorem takeCommand_out (c : CmdRecord) (s : State) :
    (takeCommand c s).out = s.out ∨ ∃ e, (takeCommand c s).out = s.out ++ [.encevt e] := by
  rcases takeCommand_cases c s with ⟨_, e⟩ | ⟨_, _, _, e⟩ | ⟨_, e⟩ <;> rw [e]
  · exact .inr ⟨_, rfl⟩
  · exact .inr ⟨_, rfl⟩
  · exact .inl rfl

/-- Everything an instruction that gives a next state can put out (R14, R230, R241). -/
theorem exec_out {i : Instr} {s t : State} (h : exec i s = .next t) :
    t.out = [] ∨ (i = .txTake ∧ ∃ b, t.out = [.tx b]) ∨ ((∃ j, i = .regRead j) ∧ ∃ v, t.out = [.regData v]) ∨
      ((∃ c, GivesCommand i c) ∧ ∃ e, t.out = [.encevt e]) ∨
      ((∃ b rest, TakesByte i b rest) ∧ ((∃ r, t.out = [.frame r]) ∨ ∃ e, t.out = [.rxevt e])) := by
  cases exec_next h with
  | dropped => exact .inl rfl
  | @read _ _ b rest hi =>
    rcases readByte_out b (s.clearOut.beginOps (rxRun rest)) with hout | hout
    · exact .inl hout
    · exact .inr (.inr (.inr (.inr ⟨⟨b, rest, hi⟩, hout⟩)))
  | held => exact .inl rfl
  | @taken _ _ c hi =>
    rcases takeCommand_out c s.clearOut with hout | hout
    · exact .inl hout
    · exact .inr (.inr (.inr (.inl ⟨⟨c, hi⟩, hout⟩)))
  | sent =>
    obtain ⟨_, _, _, _, _, _, _, _, hout, _⟩ := takeByte_frame s.clearOut
    exact .inr (.inl ⟨rfl, _, hout⟩)
  | regRead j => exact .inr (.inr (.inl ⟨⟨j, rfl⟩, _, rfl⟩))
  | regWrite j v => exact .inl (writeRegister_out j v s.clearOut)
  | reset => exact .inl rfl

theorem givesCommand_spelling {i : Instr} {c : CmdRecord} (h : GivesCommand i c) :
    (∃ c, i = .cmd c) ∨ ∃ row ∈ commandRowsOf, ∃ argc arg, i = row.1 argc arg := by
  cases h with
  | cmd c => exact .inl ⟨c, rfl⟩
  | row row hrow argc arg => exact .inr ⟨row, hrow, argc, arg, rfl⟩

theorem takesByte_spelling {i : Instr} {b : Byte} {rest : List Byte} (h : TakesByte i b rest) :
    (∃ b, i = .rxByte b) ∨ i = .sync ∨ ∃ row ∈ typeRows, ∃ args crc, i = row.1 args crc := by
  cases h with
  | rxByte b => exact .inl ⟨b, rfl⟩
  | sync => exact .inr (.inl rfl)
  | frame row hrow args crc => exact .inr (.inr ⟨row, hrow, args, crc, rfl⟩)

/-- Settles O48: each kind of output comes from one kind of instruction. -/
theorem outputsComeFromTheirOperations : Obligations.OutputsComeFromTheirOperations := by
  intro i s t h o ho
  rcases exec_out h with e | ⟨hi, b, e⟩ | ⟨hi, v, e⟩ | ⟨⟨c, hi⟩, ev, e⟩ | ⟨⟨b, rest, hi⟩, ⟨r, e⟩ | ⟨ev, e⟩⟩ <;> rw [e] at ho
  · cases ho
  · cases List.mem_singleton.mp ho
    exact ⟨fun _ _ => hi, nofun, nofun, by simp⟩
  · cases List.mem_singleton.mp ho
    exact ⟨nofun, fun _ _ => hi, nofun, by simp⟩
  · cases List.mem_singleton.mp ho
    exact ⟨nofun, nofun, fun _ _ => givesCommand_spelling hi, by simp⟩
  · cases List.mem_singleton.mp ho
    exact ⟨nofun, nofun, nofun, fun _ => takesByte_spelling hi⟩
  · cases List.mem_singleton.mp ho
    exact ⟨nofun, nofun, nofun, fun _ => takesByte_spelling hi⟩

end Sys2Proof.Proofs

/-! Proofs of the statements on the reader (42_reader.md): its step state by state, what a byte can put out, and runs of bytes with
noise, stray SYNCs and frames in them. -/

namespace Sys2Proof.Proofs

open Sys2Proof.Machine Sys2Proof.Safety

/-! ### EN = 0 and SEEK_SYNC -/

/-- Settles O24: RX_BYTE and SYNC are `rxStep` on the state without its outputs, and EN = 0 drops the byte. -/
theorem stoppedReaderDropsBytes : Obligations.StoppedReaderDropsBytes :=
  fun s b he => ⟨⟨_, rxStep_stopped b s.clearOut he, rfl, blockSame_clearOut s⟩,
    ⟨_, rxStep_stopped Config.sync s.clearOut he, rfl, blockSame_clearOut s⟩⟩

/-- With R26 an enabled reader takes a byte by its step, on the state without its outputs (R164). -/
theorem exec_rxByte_of_readByte {b : Byte} {s t : State} (hi : ReaderInvariant s) (he : s.en = true)
    (h : readByte b s.clearOut = t) : exec (.rxByte b) s = .next t :=
  (rxStep_enabled b s.clearOut he ((readerOk_iff s).mpr hi)).trans (congrArg _ h)

theorem readerInvariant_of_ready {s : State} (h : Ready s) : ReaderInvariant s := by
  obtain ⟨_, hrs, hrcnt⟩ := h
  exact (readerOk_iff s).mp (by simp [State.readerOk, hrs, hrcnt])

theorem readByte_seek_other {b : Byte} {s : State} (hr : s.rs = .seekSync) (hb : b ≠ Config.sync) : readByte b s = s := by
  simp [readByte, hr, hb]

/-- A ready reader drops every byte but SYNC (R153). -/
theorem exec_rxByte_noise {b : Byte} {s : State} (h : Ready s) (hb : b ≠ Config.sync) :
    exec (.rxByte b) s = .next s.clearOut := by
  have ⟨he, hr, _⟩ := h
  exact exec_rxByte_of_readByte (readerInvariant_of_ready h) he (readByte_seek_other hr hb)

/-- Settles O25: SYNC, spelled either way, is `rxStep` of 80 on a ready reader. -/
theorem seekSyncStartsOnSyncOnly : Obligations.SeekSyncStartsOnSyncOnly := by
  refine fun s h => ⟨fun i hi => ?_, fun b hb => ⟨_, exec_rxByte_noise h hb, rfl, blockSame_clearOut s⟩⟩
  have hexec : exec i s = .next (s.clearOut.collect 0 Config.sync .gotType) := by
    rcases hi with rfl | rfl <;> exact rxStep_sync_ready h
  exact ⟨_, hexec, rfl, rfl, rfl, Vector.getElem_setIfInBounds_self _,
    fun j hj => byteAt_set_other s.rbuf 0 j Config.sync (by omega), ⟨rfl, rfl, rfl, rfl⟩, rfl, rfl⟩

/-! ### TYPE and LEN -/

/-- A byte that makes the reader resynchronise puts out its event, and `rbuf` and the rest of the block stay (R240). -/
theorem exec_rxByte_resync {b : Byte} {s : State} {e : Event} (hi : ReaderInvariant s) (he : s.en = true)
    (h : readByte b s.clearOut = s.clearOut.resync e) :
    ∃ t, exec (.rxByte b) s = .next t ∧ t.out = [.rxevt e] ∧ t.rs = .seekSync ∧ t.rcnt = 0 ∧ t.rbuf = s.rbuf ∧
      EncoderSame s t ∧ RegistersSame s t :=
  ⟨_, exec_rxByte_of_readByte hi he h, rfl, rfl, rfl, rfl, ⟨rfl, rfl, rfl, rfl⟩, rfl, rfl⟩

theorem readByte_type {b : Byte} {s : State} (hr : s.rs = .gotType) (hb : RecognisedType b) :
    readByte b s = s.collect 1 b .accumulating := by
  simp [readByte, hr, decodeHeader, (recognised_iff b).mpr hb]

theorem readByte_badType {b : Byte} {s : State} (hr : s.rs = .gotType) (hb : ¬ RecognisedType b) :
    readByte b s = s.resync ⟨evBadType, b, 0⟩ := by
  rw [← recognised_iff] at hb
  simp [readByte, hr, decodeHeader, hb]

/-- Settles O26: a byte after SYNC is TYPE exactly if it is recognised. -/
theorem gotTypeTakesRecognisedType : Obligations.GotTypeTakesRecognisedType := by
  intro s b hi he hr
  constructor
  · intro hb
    exact ⟨_, exec_rxByte_of_readByte hi he (readByte_type hr hb), rfl, rfl, rfl, Vector.getElem_setIfInBounds_self _,
      fun j hj => byteAt_set_other s.rbuf 1 j b hj, ⟨rfl, rfl, rfl, rfl⟩, rfl, rfl⟩
  · intro hb
    exact exec_rxByte_resync hi he (readByte_badType hr hb)

theorem readByte_len {b : Byte} {s : State} (hr : s.rs = .accumulating) (h2 : s.rcnt = 2) (hb : b.toNat ≤ 10) :
    readByte b s = s.collect 2 b .accumulating := by
  simp [readByte, hr, h2, readLen, Config.maxLen, hb]

theorem readByte_badLen {b : Byte} {s : State} (hr : s.rs = .accumulating) (h2 : s.rcnt = 2) (hb : 10 < b.toNat) :
    readByte b s = s.resync ⟨evBadLen, b, s.rbuf[1]⟩ := by
  simp [readByte, hr, h2, readLen, Config.maxLen, Nat.not_le.mpr hb]

/-- Settles O27: a byte after TYPE is LEN exactly if it is at most 10. -/
theorem lenAboveTenIsAbandoned : Obligations.LenAboveTenIsAbandoned := by
  intro s b hi he hr h2
  constructor
  · intro hb
    exact ⟨_, exec_rxByte_of_readByte hi he (readByte_len hr h2 hb), rfl, rfl, rfl, Vector.getElem_setIfInBounds_self _,
      fun j hj => byteAt_set_other s.rbuf 2 j b hj, ⟨rfl, rfl, rfl, rfl⟩, rfl, rfl⟩
  · intro hb
    exact exec_rxByte_resync hi he (readByte_badLen hr h2 hb)

/-! ### ARGS and CRC -/

theorem rcnt_ne_two {s : State} (h3 : 3 ≤ s.rcnt.toNat) : s.rcnt ≠ 2 := fun h => by
  rw [h] at h3
  exact absurd h3 (by decide)

theorem readByte_arg {b : Byte} {s : State} (hr : s.rs = .accumulating) (h3 : 3 ≤ s.rcnt.toNat)
    (hn : s.rcnt.toNat + 1 < s.rbuf[2].toNat + 4) : readByte b s = s.collect s.rcnt.toNat b .accumulating := by
  rw [readByte, hr]
  exact (if_neg (rcnt_ne_two h3)).trans (if_pos hn)

/-- Settles O28: R26 keeps the byte's index inside `rbuf`, and `rcnt` does not wrap. -/
theorem argumentBytesAreAppended : Obligations.ArgumentBytesAreAppended := by
  intro s b hi he hr h3 hn
  have hmax : s.rcnt.toNat ≤ 13 := readerInvariant_rcnt_le hi
  refine ⟨_, exec_rxByte_of_readByte hi he (readByte_arg hr h3 hn), rfl, rfl, ?_,
    byteAt_set_same s.rbuf _ b (Nat.lt_succ_of_le hmax), fun j hj => byteAt_set_other s.rbuf _ j b hj,
    ⟨rfl, rfl, rfl, rfl⟩, rfl, rfl⟩
  exact Nat.mod_eq_of_lt (by omega : s.rcnt.toNat + 1 < 16)

/-- What the CRC of a frame covers is its bytes between SYNC and the CRC byte (R102). -/
theorem frameBody_append {c : List Byte} (hc : c ≠ []) (b : Byte) : frameBody (c ++ [b]) = c.drop 1 := by
  obtain ⟨m, body, rfl⟩ := List.exists_cons_of_ne_nil hc
  simp [frameBody]

theorem validate_append_iff {c : List Byte} (hc : c ≠ []) (b : Byte) :
    validate (c ++ [b]) = true ↔ b = crc8 (c.drop 1) := by
  obtain ⟨m, body, rfl⟩ := List.exists_cons_of_ne_nil hc
  exact validate_iff m b body

theorem candidate_ne_nil {s : State} (h : 0 < s.rcnt.toNat) : s.candidate ≠ [] := by
  simpa [State.candidate, Nat.pos_iff_ne_zero] using h

/-- The byte that completes the candidate frame gives one output, and the reader seeks (R159, R160). -/
theorem readByte_completes {b : Byte} {s : State} (hr : s.rs = .accumulating) (h3 : 3 ≤ s.rcnt.toNat)
    (hn : s.rcnt.toNat + 1 = s.rbuf[2].toNat + 4) :
    readByte b s =
      (s.emit (if b = crc8 (s.candidate.drop 1) then .frame (classify (s.candidate ++ [b]) s.id)
        else .rxevt ⟨evBadCrc, b, crc8 (s.candidate.drop 1)⟩)).seek := by
  have hc : s.candidate ≠ [] := candidate_ne_nil (by omega)
  have hfinish : readByte b s = finishFrame b s := by
    rw [readByte, hr]
    exact (if_neg (rcnt_ne_two h3)).trans (if_neg (by omega))
  simp only [hfinish, finishFrame, validate_append_iff hc, frameBody_append hc]
  split <;> rfl

/-- Settles O29: the last byte completes the candidate, and its one output tells the CRC from any other byte. -/
theorem crcByteCompletesFrame : Obligations.CrcByteCompletesFrame := by
  intro s b hi he hr h3 hn
  refine ⟨_, exec_rxByte_of_readByte hi he (readByte_completes hr h3 hn), rfl, rfl, rfl, ⟨rfl, rfl, rfl, rfl⟩, ⟨rfl, rfl⟩,
    fun hb => ?_, fun hb => ?_⟩
  · exact congrArg (fun o => [o]) (if_pos hb)
  · exact congrArg (fun o => [o]) (if_neg hb)

/-- Settles O40: a frame row's last byte puts out BAD_CRC when it is not the CRC. -/
theorem badCrcFramesAreDiscarded : Obligations.BadCrcFramesAreDiscarded := by
  intro row hrow s args b h hl hb
  have hread := frameRow_readsFrame hrow args b s h hl
  rw [frameOutput, if_neg hb] at hread
  exact hread

/-! ### What a byte and a command put out -/

/-- The outputs that a byte can give: none, a FRAME record, or one of the three RXEVTs (R231 to R234). -/
def ReaderOutputs (out : List Output) : Prop :=
  out = [] ∨ (∃ r, out = [.frame r]) ∨ ∃ a c, out = [.rxevt ⟨0x01, a, c⟩] ∨ out = [.rxevt ⟨0x02, a, c⟩] ∨
    out = [.rxevt ⟨0x03, a, c⟩]

/-- The outputs that a command can give: none, or one of the two ENCEVTs (R231, R235, R236). -/
def EncoderOutputs (out : List Output) : Prop :=
  out = [] ∨ ∃ a c, out = [.encevt ⟨0x11, a, c⟩] ∨ out = [.encevt ⟨0x12, a, c⟩]

theorem readByte_readerOutputs (b : Byte) {s : State} (hs : s.out = []) : ReaderOutputs (readByte b s).out := by
  rcases readByte_cases b s with ⟨_, _, e⟩ | ⟨_, _, e⟩ | ⟨_, _, e⟩ | ⟨_, _, e⟩ | ⟨_, _, _, e⟩ | ⟨_, _, _, e⟩ |
    ⟨_, _, _, e⟩ | ⟨_, _, _, _, e⟩ | ⟨_, _, _, _, e⟩ <;>
    simp [e, hs, ReaderOutputs, evBadType, evBadLen, evBadCrc]

theorem takesByte_readerOutputs {i : Instr} {b : Byte} {rest : List Byte} (hi : TakesByte i b rest) {s t : State}
    (h : exec i s = .next t) : ReaderOutputs t.out := by
  rw [exec_takesByte hi, rxChunk] at h
  rcases rxStep_cases b (s.clearOut.beginOps (rxRun rest)) with ⟨_, e⟩ | ⟨_, _, e⟩ | ⟨_, _, e⟩ <;> cases e.symm.trans h
  · exact .inl rfl
  · exact readByte_readerOutputs b rfl

theorem takeCommand_encoderOutputs (c : CmdRecord) {s : State} (hs : s.out = []) :
    EncoderOutputs (takeCommand c s).out := by
  rcases takeCommand_cases c s with ⟨_, e⟩ | ⟨_, _, _, e⟩ | ⟨_, e⟩ <;>
    simp [e, hs, EncoderOutputs, evEncBadOpcode, evEncBadArgc]

theorem givesCommand_encoderOutputs {i : Instr} {c : CmdRecord} (hi : GivesCommand i c) {s t : State}
    (h : exec i s = .next t) : EncoderOutputs t.out := by
  rw [exec_givesCommand hi] at h
  rcases cmdStep_cases c s.clearOut with ⟨_, e⟩ | ⟨_, _, e⟩ | ⟨_, _, e⟩ <;> cases e.symm.trans h
  · exact .inl rfl
  · exact takeCommand_encoderOutputs c rfl

theorem exists_takesByte {i : Instr}
    (h : (∃ b, i = .rxByte b) ∨ i = .sync ∨ ∃ row ∈ typeRows, ∃ args crc, i = row.1 args crc) :
    ∃ b rest, TakesByte i b rest := by
  rcases h with ⟨b, rfl⟩ | rfl | ⟨row, hrow, args, crc, rfl⟩
  · exact ⟨_, _, .rxByte b⟩
  · exact ⟨_, _, .sync⟩
  · exact ⟨_, _, .frame row hrow args crc⟩

theorem exists_givesCommand {i : Instr}
    (h : (∃ c, i = .cmd c) ∨ ∃ row ∈ commandRowsOf, ∃ argc arg, i = row.1 argc arg) : ∃ c, GivesCommand i c := by
  rcases h with ⟨c, rfl⟩ | ⟨row, hrow, argc, arg, rfl⟩
  · exact ⟨_, .cmd c⟩
  · exact ⟨_, .row row hrow argc arg⟩

/-- No instruction puts out more than one thing (R230, R241). -/
theorem exec_out_length {i : Instr} {s t : State} (h : exec i s = .next t) : t.out.length ≤ 1 := by
  rcases exec_out h with e | ⟨_, _, e⟩ | ⟨_, _, e⟩ | ⟨_, _, e⟩ | ⟨_, ⟨_, e⟩ | ⟨_, e⟩⟩ <;> simp [e]

theorem step_out_length {s t : State} (h : step s = .next t) : t.out.length ≤ 1 := by
  rcases step_cases s with ⟨_, e⟩ | ⟨_, _, e⟩ | ⟨_, _, e⟩ <;> rw [e] at h
  · cases h
    exact Nat.zero_le 1
  · exact exec_out_length h
  · cases h

/-- Settles O31: a step is one instruction at most, and a byte and a command have their own outputs. -/
theorem atMostOneOutputPerStep : Obligations.AtMostOneOutputPerStep := by
  refine ⟨fun _ _ _ => exec_out_length, fun _ _ => step_out_length, fun i s t hi h => ?_, fun i s t hi h => ?_⟩
  · obtain ⟨_, _, hbyte⟩ := exists_takesByte hi
    exact takesByte_readerOutputs hbyte h
  · obtain ⟨_, hcmd⟩ := exists_givesCommand hi
    exact givesCommand_encoderOutputs hcmd h

/-! ### Noise, frames and stray SYNCs -/

/-- A run from its first instruction and the run of the rest. -/
theorem observe_cons {i : Instr} {is : List Instr} {s u t : State} {outs : List (List Output)} (hx : exec i s = .next u)
    (h : observe is u = some (t, outs)) : observe (i :: is) s = some (t, u.out :: outs) := by
  simp only [observe, hx, h]
  rfl

/-- A run of bytes and a run of more bytes from where it ends. -/
theorem observe_rxRun_append {xs ys : List Byte} {s u t : State} {os ps : List (List Output)}
    (hxs : observe (rxRun xs) s = some (u, os)) (hys : observe (rxRun ys) u = some (t, ps)) :
    observe (rxRun (xs ++ ys)) s = some (t, os ++ ps) := by
  have hsplit : rxRun (xs ++ ys) = rxRun xs ++ rxRun ys := List.map_append
  rw [hsplit, observe_append _ _ _ _ _ hxs, hys]
  rfl

/-- Noise without SYNC passes a ready reader by: nothing is put out and the reader stays ready (R153). -/
theorem observe_noise (g : List Byte) {s : State} (h : Ready s) (hg : Config.sync ∉ g) :
    ∃ t, observe (rxRun g) s = some (t, List.replicate g.length []) ∧ Ready t ∧ t.id = s.id := by
  induction g generalizing s with
  | nil => exact ⟨s, rfl, h, rfl⟩
  | cons b g ih =>
    obtain ⟨hb, hg⟩ := List.ne_and_not_mem_of_not_mem_cons hg
    obtain ⟨t, hrun, ht, hid⟩ := ih (s := s.clearOut) h hg
    exact ⟨t, observe_cons (exec_rxByte_noise h (Ne.symm hb)) hrun, ht, hid⟩

/-- Noise without SYNC and a valid frame give the frame's record, on its last byte (R159, R166). -/
theorem observe_noise_wireFrame (g : List Byte) (ty : Byte) (args : List Byte) {s : State} (h : Ready s)
    (hg : Config.sync ∉ g) (ht : RecognisedType ty) (hl : args.length ≤ 10) :
    ∃ t, observe (rxRun (g ++ wireFrame ty args)) s =
        some (t, List.replicate (g.length + args.length + 3) [] ++ [[.frame (classify (wireFrame ty args) s.id)]]) ∧
      Ready t ∧ t.id = s.id := by
  obtain ⟨u, hnoise, hu, hid⟩ := observe_noise g h hg
  obtain ⟨t, hframe, hready, -, -, hid'⟩ := observe_wireFrame ty args u hu ((recognised_iff ty).mpr ht) hl
  have hrun := observe_rxRun_append hnoise hframe
  rw [← List.append_assoc, ← List.replicate_add, ← Nat.add_assoc, hid] at hrun
  exact ⟨t, hrun, hready, hid'.trans hid⟩

/-- Settles O51: noise and a frame, twice; the reader is ready in between, with the same IDENTITY. -/
theorem noiseThenFramesGivesBothRecords : Obligations.NoiseThenFramesGivesBothRecords := by
  intro s g h t1 t2 a1 a2 hs hg hh ht1 ht2 hl1 hl2
  obtain ⟨u, hrun1, hu, hid⟩ := observe_noise_wireFrame g t1 a1 hs hg ht1 hl1
  obtain ⟨t, hrun2, ht, -⟩ := observe_noise_wireFrame h t2 a2 hu hh ht2 hl2
  have hrun := observe_rxRun_append hrun1 hrun2
  rw [← List.append_assoc (g ++ _), hid] at hrun
  exact ⟨t, hrun, ht⟩

/-- SYNC is no TYPE (R155). -/
theorem not_recognisedType_sync : ¬ RecognisedType 0x80 := by
  unfold RecognisedType
  decide

/-- A byte keeps R26. -/
theorem exec_rxByte_readerInvariant {b : Byte} {s t : State} (hi : ReaderInvariant s) (he : s.en = true)
    (h : exec (.rxByte b) s = .next t) : ReaderInvariant t := by
  cases (exec_rxByte_of_readByte hi he rfl).symm.trans h
  exact (readerOk_iff _).mp (readByte_readerOk b s.clearOut ((readerOk_iff s).mpr hi))

/-- Settles O52: the frame's SYNC is taken as TYPE or as LEN, and what follows is noise. -/
theorem falseSyncLosesFrame : Obligations.FalseSyncLosesFrame := by
  intro s rest ty hs hrest hty
  have ⟨he, _⟩ := hs
  obtain ⟨s1, hx1, hout1, hrs1, -, -, -, -, hen1, -⟩ := (seekSyncStartsOnSyncOnly s hs).1 _ (.inl rfl)
  have he1 := hen1.trans he
  have hi1 := exec_rxByte_readerInvariant (readerInvariant_of_ready hs) he hx1
  constructor
  · obtain ⟨s2, hx2, hout2, hrs2, hrcnt2, -, -, hen2, -⟩ :=
      (gotTypeTakesRecognisedType s1 0x80 hi1 he1 hrs1).2 not_recognisedType_sync
    obtain ⟨t, hrun, ht, -⟩ := observe_noise rest ⟨hen2.trans he1, hrs2, hrcnt2⟩ hrest
    have hall := observe_cons hx1 (observe_cons hx2 hrun)
    rw [hout1, hout2] at hall
    exact ⟨t, hall, ht⟩
  · obtain ⟨s2, hx2, hout2, hrs2, hrcnt2, htype, -, -, hen2, -⟩ := (gotTypeTakesRecognisedType s1 ty hi1 he1 hrs1).1 hty
    have he2 := hen2.trans he1
    have hi2 := exec_rxByte_readerInvariant hi1 he1 hx2
    obtain ⟨s3, hx3, hout3, hrs3, hrcnt3, -, -, hen3, -⟩ :=
      (lenAboveTenIsAbandoned s2 0x80 hi2 he2 hrs2 hrcnt2).2 (by decide)
    obtain ⟨t, hrun, ht, -⟩ := observe_noise rest ⟨hen3.trans he2, hrs3, hrcnt3⟩ hrest
    have hall := observe_cons hx1 (observe_cons hx2 (observe_cons hx3 hrun))
    rw [hout1, hout2, hout3, htype] at hall
    exact ⟨t, hall, ht⟩

end Sys2Proof.Proofs

/-! Proofs of the statements on the classifier (43_dispatch.md): the record of a valid frame class by class, and the rows that give
it. -/

namespace Sys2Proof.Proofs

open Sys2Proof.Machine Sys2Proof.Safety

/-! ### The record of a frame -/

/-- A record's argument field: the arguments, then zeros (R79). -/
theorem paddedArgs_toList (args : List Byte) (hl : args.length ≤ 10) :
    (paddedArgs args).toList = args ++ List.replicate (10 - args.length) 0 := by
  have h := writeFrom_toList (Vector.replicate Config.argBytes 0x00) 0 args (by simpa using hl)
  simpa [paddedArgs] using h

/-- The nine acknowledgment rows have the catalog's TYPEs (R72, R74). -/
theorem ackRow_catalog : ∀ row ∈ ackRows, catalog row.2 = true := by decide

theorem ackRow_classOf {row : (List Byte → Byte → Instr) × Byte} (hrow : row ∈ ackRows) : classOf row.2 = .ack :=
  classOf_of_catalog (ackRow_catalog row hrow)

/-- The record of an acknowledgment frame of one argument: the status and its kind (R180, R191). -/
theorem classify_ack_status {ty : Byte} (h : classOf ty = .ack) (st : Byte) (id : Identity) :
    classify (wireFrame ty [st]) id =
      { plainRecord .ack ty [st] true with
        ackStatus := st
        ackKind := if st = 0x00 then .ok else if st = 0x03 then .remoteBadCrc else .nack } := by
  simp [classify, wireFrame, h, wellformed, plainRecord, ackKind]

/-- The record of an acknowledgment frame of another length (R181, R192). -/
theorem classify_ack_misshapen {ty : Byte} (h : classOf ty = .ack) (args : List Byte) (id : Identity)
    (hl : args.length ≤ 10) (h1 : args.length ≠ 1) :
    classify (wireFrame ty args) id = plainRecord .ack ty args false := by
  have hwf : wellformed .ack args.length = false := beq_false_of_ne h1
  have hrec := classify_plain ty args id hl (.inr (h ▸ hwf))
  rwa [h, hwf] at hrec

/-- The record of a boot frame, well formed at every length (R181, R193). -/
theorem classify_boot (args : List Byte) (id : Identity) (hl : args.length ≤ 10) :
    classify (wireFrame 0xF0 args) id = plainRecord .boot 0xF0 args true := by
  have hclass : classOf 0xF0 = .boot := by decide
  have hrec := classify_plain 0xF0 args id hl (.inl hclass)
  rwa [hclass] at hrec

/-- The record of a telemetry frame of another length than seven (R181, R195). -/
theorem classify_telemetry_misshapen (args : List Byte) (id : Identity) (hl : args.length ≤ 10) (h7 : args.length ≠ 7) :
    classify (wireFrame 0xFF args) id = plainRecord .telem 0xFF args false := by
  have hclass : classOf 0xFF = .telem := by decide
  have hwf : wellformed .telem args.length = false := beq_false_of_ne h7
  have hrec := classify_plain 0xFF args id hl (.inr (hclass ▸ hwf))
  rwa [hclass, hwf] at hrec

/-- Settles O33: the record of each class, at the lengths that class has fields for and at the others. -/
theorem classifierFollowsTypeAndLength : Obligations.ClassifierFollowsTypeAndLength := fun id args hl =>
  ⟨fun _ hrow st => classify_ack_status (ackRow_classOf hrow) st id,
    fun _ hrow h1 => classify_ack_misshapen (ackRow_classOf hrow) args id hl h1,
    classify_boot args id hl,
    fun h7 => classify_telemetry_misshapen args id hl h7,
    fun a0 a1 a2 a3 a4 a5 a6 => classify_telemetry a0 a1 a2 a3 a4 a5 a6 id,
    paddedArgs_toList args hl⟩

/-! ### The rows that give it -/

theorem ackRow_mem_typeRows {row : (List Byte → Byte → Instr) × Byte} (hrow : row ∈ ackRows) : row ∈ typeRows :=
  List.mem_append_left _ hrow

/-- Settles O34: an acknowledgment row gives the record of its wire frame, which has the status and its kind. -/
theorem ackFramesReportStatus : Obligations.AckFramesReportStatus := by
  intro row hrow s st h
  have hrec := frameRow_givesRecord (ackRow_mem_typeRows hrow) [st] s h (by simp)
  rwa [classify_ack_status (ackRow_classOf hrow)] at hrec

/-- Settles O35: at another length than one, the record of an acknowledgment row's wire frame has no status. -/
theorem misshapenAckHasNoStatus : Obligations.MisshapenAckHasNoStatus := by
  intro row hrow s args h hl h1
  have hrec := frameRow_givesRecord (ackRow_mem_typeRows hrow) args s h hl
  rwa [classify_ack_misshapen (ackRow_classOf hrow) args s.id hl h1] at hrec

/-- Settles O38: at another length than seven, the record of the telemetry row's wire frame has no fields. -/
theorem misshapenTelemetryHasNoFields : Obligations.MisshapenTelemetryHasNoFields := by
  intro s args h hl h7
  have hrow : (.telemetry, 0xFF) ∈ typeRows := by simp [typeRows]
  have hrec := frameRow_givesRecord hrow args s h hl
  rwa [classify_telemetry_misshapen args s.id hl h7] at hrec

/-! ### rssi -/

/-- `rssi_q1` subtracts 140 from the signed byte without overflow (R196). -/
theorem rssiQ1_toInt (raw : Byte) : (rssiQ1 raw).toInt = raw.toInt - 140 := by
  have hlo : -128 ≤ raw.toInt := BitVec.le_toInt raw
  have hhi : raw.toInt < 128 := BitVec.toInt_lt
  have hext : (raw.signExtend 16).toInt = raw.toInt := BitVec.toInt_signExtend_of_le (by decide)
  rw [rssiQ1, BitVec.toInt_sub, hext]
  exact Int.bmod_eq_of_le (by simp; omega) (by simp; omega)

/-- Settles O39: the byte, read as signed, is less by 256 from 128 on. -/
theorem rssiIsTwiceTheSourceFormula : Obligations.RssiIsTwiceTheSourceFormula := by
  intro raw
  have hsigned : raw.toInt = if 2 * raw.toNat < 256 then (raw.toNat : Int) else raw.toNat - 256 :=
    BitVec.toInt_eq_toNat_cond raw
  have hlt : raw.toNat < 256 := raw.isLt
  rw [rssiQ1_toInt, hsigned]
  split <;> omega

end Sys2Proof.Proofs

/-! Proofs of the statements on the register block (44_control.md): what a read gives, what a write does and leaves, which operations
change a register, and the order of a cycle. -/

namespace Sys2Proof.Proofs

open Sys2Proof.Machine Sys2Proof.Safety

/-! ### REG_READ -/

/-- STATUS as a number: 64 * EBUSY + 4 * RCNT + RSTATE (R35, R210). -/
theorem status_toNat (s : State) :
    s.status.toNat = (if s.ebusy then 64 else 0) + s.rcnt.toNat * 4 + s.rs.code.toNat := by
  rw [State.status]
  generalize s.ebusy = busy, s.rcnt = cnt, s.rs.code = code
  decide +revert

/-- CTRL is read as its bit EN alone (R33, R212). -/
theorem register_ctrl_eq_ite (s : State) : s.register 0 = if s.en then 1 else 0 := by
  cases h : s.en <;> exact (register_ctrl s).trans (by rw [h]; rfl)

/-- Settles O3: index by index, the value of the register; the read itself changes the outputs alone. -/
theorem regReadGivesRegister : Obligations.RegReadGivesRegister := by
  refine fun s i => ⟨_, _, exec_regRead i s, rfl, blockSame_clearOut s, ?_, ?_, ?_, register_reserved s i⟩
  · rintro rfl
    exact register_ctrl_eq_ite s
  · rintro rfl
    exact register_identity s
  · rintro rfl
    exact status_toNat s

/-! ### REG_WRITE -/

/-- Settles O5: the encoder, `rbuf` and the outputs stay at every index, and each index has its own effect. -/
theorem regWriteEffects : Obligations.RegWriteEffects := by
  refine fun s i v => ⟨_, exec_regWrite i v s, writeRegister_out i v s.clearOut, writeRegister_encoder i v s.clearOut,
    writeRegister_rbuf i v s.clearOut, ?_, ?_, ?_⟩
  · rintro rfl
    rw [writeRegister_ctrl, register_ctrl_eq_ite]
    rcases writeCtrl_cases v s.clearOut with ⟨hv, e⟩ | ⟨hv, e⟩ <;> rw [e, hv]
    · exact ⟨rfl, rfl, rfl, nofun, fun _ => ⟨rfl, rfl, rfl⟩⟩
    · exact ⟨rfl, rfl, rfl, fun _ => ⟨rfl, rfl⟩, nofun⟩
  · rintro rfl
    rw [writeRegister_identity]
    exact ⟨rfl, rfl, rfl, rfl, rfl⟩
  · intro h
    rw [writeRegister_ignored i v s.clearOut h]
    exact blockSame_clearOut s

/-- A stop: EN = 0, and the reader is in SEEK_SYNC with nothing held (R214). -/
theorem exec_stop (s : State) : exec (.regWrite 0 0) s = .next { s.clearOut.seek with en := false } := rfl

/-- A start: EN = 1, and the reader goes on where it is (R214). -/
theorem exec_start (s : State) : exec (.regWrite 0 1) s = .next { s.clearOut with en := true } := rfl

/-- Settles O8: the stop takes the reader to SEEK_SYNC, and the start leaves it there. -/
theorem stopAndStartAbandonsFrame : Obligations.StopAndStartAbandonsFrame := by
  refine fun s => ⟨{ s.clearOut.seek with en := true }, ?_, ⟨rfl, rfl, rfl⟩, ⟨rfl, rfl, rfl, rfl⟩, rfl⟩
  simp only [observe, exec_stop, exec_start]
  rfl

/-! ### What changes a register -/

/-- Everything a next state's registers can be (R33, R34, R249): those of the state before it, those of a write, or those at
reset. -/
theorem exec_registers {i : Instr} {s t : State} (h : exec i s = .next t) :
    RegistersSame s t ∨ (∃ v, i = .regWrite 0 v ∧ t.en = v.getLsbD 0 ∧ t.id = s.id) ∨
      (∃ v, i = .regWrite 1 v ∧ t.id = v ∧ t.en = s.en) ∨ i = .reset := by
  cases exec_next h with
  | dropped => exact .inl ⟨rfl, rfl⟩
  | read => exact .inl ⟨readByte_en _ _, readByte_id _ _⟩
  | held => exact .inl ⟨rfl, rfl⟩
  | @taken _ _ c =>
    obtain ⟨_, _, _, hen, hid, _⟩ := takeCommand_frame c s.clearOut
    exact .inl ⟨hen, hid⟩
  | sent =>
    obtain ⟨_, _, _, hen, hid, _⟩ := takeByte_frame s.clearOut
    exact .inl ⟨hen, hid⟩
  | regRead => exact .inl ⟨rfl, rfl⟩
  | regWrite j v =>
    rcases writeRegister_cases j v s.clearOut with ⟨rfl, hv, e⟩ | ⟨rfl, hv, e⟩ | ⟨rfl, e⟩ | ⟨_, e⟩ <;> rw [e]
    · exact .inr (.inl ⟨v, rfl, hv.symm, rfl⟩)
    · exact .inr (.inl ⟨v, rfl, hv.symm, rfl⟩)
    · exact .inr (.inr (.inl ⟨v, rfl, rfl, rfl⟩))
    · exact .inl ⟨rfl, rfl⟩
  | reset => exact .inr (.inr (.inr rfl))

/-- Settles O46: of the ways to a next state, those that leave a register as it was cannot have changed it. -/
theorem registersChangeOnlyByWriteOrReset : Obligations.RegistersChangeOnlyByWriteOrReset := by
  intro i s t h
  rcases exec_registers h with ⟨hen, hid⟩ | ⟨v, hi, hen, hid⟩ | ⟨v, hi, hid, hen⟩ | hi
  · exact ⟨absurd hen, absurd hid⟩
  · exact ⟨fun _ => .inl ⟨v, hi, hen⟩, absurd hid⟩
  · exact ⟨absurd hen, fun _ => .inl ⟨v, hi, hid⟩⟩
  · exact ⟨fun _ => .inr hi, fun _ => .inr hi⟩

/-! ### A cycle -/

/-- The work of a cycle: its byte, its command and its TX_TAKE (R215; log 15). -/
theorem cycle_serial_work (rx : Option Byte) (cmd : Option CmdRecord) (tx busy : Bool) :
    (⟨none, rx, cmd, tx⟩ : Machine.Cycle).serial busy =
      (rx.map .rxByte).toList ++ (cmd.map .cmd).toList ++ (if tx && busy then [.txTake] else []) := by
  simp [Cycle.serial, Cycle.reads, Cycle.writes]

/-- A run from the invariants that has at most one TX_TAKE, on an encoder busy at its beginning, and no RESET: every operation has a
next state, since before its TX_TAKE nothing makes the encoder idle (R238, R271). -/
theorem observe_completes (is : List Instr) {s : State} (hi : BlockInvariant s) (hreset : .reset ∉ is)
    (hone : is.count .txTake ≤ 1) (hbusy : .txTake ∈ is → s.ebusy = true) :
    ∃ t outs, observe is s = some (t, outs) := by
  induction is generalizing s with
  | nil => exact ⟨s, [], rfl⟩
  | cons i is ih =>
    have hnext : ∃ u, exec i s = .next u := by
      rcases onlyIdleTxTakeStops s i hi with h | ⟨rfl, hidle, _⟩
      · exact h
      · cases hidle.symm.trans (hbusy List.mem_cons_self)
    obtain ⟨u, hu⟩ := hnext
    have hrest : .txTake ∈ is → u.ebusy = true := by
      intro hmem
      have hbefore : s.ebusy = true := hbusy (List.mem_cons_of_mem i hmem)
      by_contra hidle
      rcases busyIsLiftedOnlyByTakeOrReset i s u hu hbefore (eq_false_of_ne_true hidle) with ⟨rfl, _⟩ | rfl
      · have hpos : 0 < is.count .txTake := List.count_pos_iff.mpr hmem
        rw [List.count_cons_self] at hone
        omega
      · exact hreset List.mem_cons_self
    obtain ⟨t, outs, hrun⟩ := ih (exec_blockInvariant hi hu) (fun h => hreset (List.mem_cons_of_mem i h))
      (List.count_le_count_cons.trans hone) hrest
    exact ⟨t, u.out :: outs, by simp [observe, hu, hrun]⟩

/-- A cycle's work has no RESET and at most one TX_TAKE, and that only if the encoder is busy as the cycle begins (R81, R274;
log 15). -/
theorem cycle_work_operations (rx : Option Byte) (cmd : Option CmdRecord) (tx busy : Bool) :
    .reset ∉ (⟨none, rx, cmd, tx⟩ : Machine.Cycle).serial busy ∧
      ((⟨none, rx, cmd, tx⟩ : Machine.Cycle).serial busy).count .txTake ≤ 1 ∧
      (.txTake ∈ (⟨none, rx, cmd, tx⟩ : Machine.Cycle).serial busy → busy = true) := by
  have hrx : .txTake ∉ (rx.map Instr.rxByte).toList := by simp
  have hcmd : .txTake ∉ (cmd.map Instr.cmd).toList := by simp
  rw [cycle_serial_work]
  refine ⟨by simp, ?_, by simp⟩
  rw [List.count_append, List.count_append, List.count_eq_zero_of_not_mem hrx, List.count_eq_zero_of_not_mem hcmd]
  split <;> simp

/-- A register operation is neither RESET nor TX_TAKE, so what holds of a cycle's work holds of the cycle. -/
theorem cycle_operations (c : Machine.Cycle) (busy : Bool) :
    .reset ∉ c.serial busy ∧ (c.serial busy).count .txTake ≤ 1 ∧ (.txTake ∈ c.serial busy → busy = true) := by
  obtain ⟨_ | ⟨i | ⟨i, v⟩⟩, rx, cmd, tx⟩ := c
  · exact cycle_work_operations rx cmd tx busy
  · simpa [Cycle.serial_read] using cycle_work_operations rx cmd tx busy
  · simpa [Cycle.serial_write] using cycle_work_operations rx cmd tx busy

/-- A run that begins with a read puts out the register's value first (R210). -/
theorem observe_regRead_head {i : Nibble} {is : List Instr} {s t : State} {outs : List (List Output)}
    (h : observe (.regRead i :: is) s = some (t, outs)) : outs.head? = some [.regData (s.register i)] := by
  simp only [observe, exec_regRead, Option.map_eq_some_iff] at h
  obtain ⟨r, _, e⟩ := h
  cases e
  rfl

/-- Settles O60: the three orders are `serial` itself, and a cycle is a run that completes, with its read at its head. -/
theorem cycleOrderIsReadWorkWrite : Obligations.CycleOrderIsReadWorkWrite := by
  constructor
  · intro rx cmd tx busy work
    have hwork : (⟨none, rx, cmd, tx⟩ : Machine.Cycle).serial busy = work := cycle_serial_work rx cmd tx busy
    refine ⟨hwork, fun i v => ?_, fun i => ?_⟩
    · rw [Cycle.serial_write, hwork]
    · rw [Cycle.serial_read, hwork]
  · intro s c hi
    obtain ⟨hreset, hone, hbusy⟩ := cycle_operations c s.ebusy
    obtain ⟨t, outs, hrun⟩ := observe_completes (c.serial s.ebusy) hi hreset hone hbusy
    refine ⟨t, outs, hrun, fun i hread => ?_⟩
    obtain ⟨reg, rx, cmd, tx⟩ := c
    obtain rfl : reg = some (.read i) := hread
    rw [Cycle.serial_read] at hrun
    exact observe_regRead_head hrun

end Sys2Proof.Proofs

/-! Proofs of the statements on reset and hazards (70_reset_and_hazards.md): RESET from any state, and an IDENTITY write in the middle
of a telemetry frame. -/

namespace Sys2Proof.Proofs

open Sys2Proof.Machine Sys2Proof.Safety

/-! ### RESET -/

/-- RESET from any state: the reset state, with the host's own lists (R260; log 13). -/
theorem exec_reset (s : State) :
    exec .reset s = .next { State.reset with begun := s.begun, waiting := s.waiting, pending := s.pending } := rfl

/-- At reset every register index reads 0 (R39, R210). -/
theorem register_reset : ∀ i : Nibble, State.reset.register i = 0 := by decide

/-- Settles O2: the next state has the block's fields, the outputs and so the registers of `State.reset`. -/
theorem resetFromAnyState : Obligations.ResetFromAnyState := by
  intro s
  obtain ⟨hrs, hrbuf, hrcnt, hebusy, htbuf, htlen, htidx, hen, hid⟩ := resetStateValues
  exact ⟨_, exec_reset s, rfl, hrs, hrcnt, hrbuf, hebusy, htlen, htidx, htbuf, hen, hid, register_reset⟩

/-! ### An IDENTITY write in the middle of a frame -/

/-- The state with another IDENTITY. -/
abbrev withIdentity (d : Identity) (s : State) : State := { s with id := d }

/-- A write to IDENTITY changes that alone and puts out nothing (R213). -/
theorem exec_regWrite_identity (v : RegWord) (s : State) : exec (.regWrite 1 v) s = .next (withIdentity v s.clearOut) := by
  rw [exec_regWrite, writeRegister_identity]

theorem readByte_sync {s : State} (hr : s.rs = .seekSync) : readByte Config.sync s = s.collect 0 Config.sync .gotType := by
  simp [readByte, hr]

/-- A byte that puts out nothing does not see IDENTITY: only a telemetry frame's record holds it (R159, R197). -/
theorem readByte_withIdentity {b : Byte} {s : State} (hq : (readByte b s).out = s.out) (d : Identity) :
    readByte b (withIdentity d s) = withIdentity d (readByte b s) := by
  rcases readByte_cases b s with ⟨hr, hb, e⟩ | ⟨hr, rfl, e⟩ | ⟨hr, hb, e⟩ | ⟨_, _, e⟩ | ⟨hr, h2, hb, e⟩ | ⟨_, _, _, e⟩ |
    ⟨hr, h2, hn, e⟩ | ⟨_, _, _, _, e⟩ | ⟨_, _, _, _, e⟩ <;> rw [e] at hq ⊢
  · exact readByte_seek_other hr hb
  · exact readByte_sync hr
  · exact readByte_type hr ((recognised_iff b).mp hb)
  · simp at hq
  · exact readByte_len hr h2 hb
  · simp at hq
  · rw [readByte, hr]
    exact (if_neg h2).trans (if_pos hn)
  all_goals simp at hq

/-- RX_BYTE that puts out nothing does not see IDENTITY, and leaves it. -/
theorem rxStep_withIdentity {b : Byte} {s u : State} (h : rxStep b s = .next u) (hq : u.out = s.out) (d : Identity) :
    rxStep b (withIdentity d s) = .next (withIdentity d u) ∧ u.id = s.id := by
  rcases rxStep_cases b s with ⟨he, e⟩ | ⟨he, ho, e⟩ | ⟨_, _, e⟩ <;> cases e.symm.trans h
  · exact ⟨rxStep_stopped b (withIdentity d s) he, rfl⟩
  · rw [rxStep_enabled b (withIdentity d s) he ho, readByte_withIdentity hq]
    exact ⟨rfl, readByte_id b s⟩

/-- An IDENTITY write after bytes that put out nothing and before another byte, whatever IDENTITY was before it: the run is that of
the bytes from a state that has the value throughout, with the write's own step in it. -/
theorem observe_identityWrite {k : Nat} {bs : List Byte} {s t : State} {outs : List (List Output)} (hk : k < bs.length)
    (h : observe (rxRun bs) s = some (t, outs)) (hq : outs.take k = List.replicate k []) (d : Identity) :
    observe (rxRun (bs.take k) ++ .regWrite 1 s.id :: rxRun (bs.drop k)) (withIdentity d s) = some (t, [] :: outs) := by
  induction k generalizing bs s outs with
  | zero =>
    cases bs with
    | nil => simp at hk
    | cons b bs => exact observe_cons (exec_regWrite_identity s.id (withIdentity d s)) h
  | succ k ih =>
    cases bs with
    | nil => simp at hk
    | cons b bs =>
      obtain ⟨u, hu, hrun, houts⟩ := observe_rxByte_cons h
      rw [houts, List.take_succ_cons, List.replicate_succ] at hq
      obtain ⟨hout, hq⟩ := List.cons_eq_cons.mp hq
      obtain ⟨hstep, hid⟩ := rxStep_withIdentity hu hout d
      have hrest := ih (Nat.lt_of_succ_lt_succ hk) hrun hq
      rw [hid] at hrest
      have hexec : exec (.rxByte b) (withIdentity d s) = .next (withIdentity d u) := hstep
      have hall := observe_cons hexec hrest
      rw [show (withIdentity d u).out = [] from hout] at hall
      rw [houts, hout]
      exact hall

/-- The record of a telemetry frame of seven arguments is well formed and holds IDENTITY (R181, R197). -/
theorem classify_telemetry_dst {args : List Byte} (h7 : args.length = 7) (id : Identity) :
    (classify (wireFrame 0xFF args) id).dst = id ∧ (classify (wireFrame 0xFF args) id).wf = true := by
  match args, h7 with
  | [a0, a1, a2, a3, a4, a5, a6], _ =>
    rw [classify_telemetry]
    exact ⟨rfl, rfl⟩

/-- Settles O53: the frame read with the new value throughout gives its record on its last byte, and its bytes before the write put
out nothing. -/
theorem identityIsSampledAtCrcByte : Obligations.IdentityIsSampledAtCrcByte := by
  intro s args k v h h7 hk
  obtain ⟨t, hrun, -⟩ := observe_wireFrame 0xFF args (withIdentity v s) h (by decide) (by omega)
  have hlen : (wireFrame 0xFF args).length = 11 := by simp [wireFrame, h7]
  have hquiet (o : List (List Output)) : (List.replicate (args.length + 3) [] ++ o).take k = List.replicate k [] := by
    rw [List.take_append_of_le_length (by simp; omega), List.take_replicate, min_eq_left (by omega)]
  have hwrite := observe_identityWrite (by omega) hrun (hquiet _) s.id
  rw [h7] at hwrite
  exact ⟨t, _, hwrite, classify_telemetry_dst h7 v⟩

end Sys2Proof.Proofs
